-- ==== Sys2Proof/Word.lean ====
section
/-! DEFINITION. The word types of the machine (spec/00_scope.md R5 to R7, 10_state.md). -/

namespace Sys2Proof

/-- Four bits: one hexadecimal digit of an instruction word (R61). -/
abbrev Nibble := BitVec 4

/-- One byte: a general register (R10), a timer (R21), a byte of Memory (R23). -/
abbrev Byte := BitVec 8

/-- The 12-bit field NNN, an absolute address (R61, R63). -/
abbrev Addr12 := BitVec 12

/-- Sixteen bits: an instruction word (R60), `pc` (R13), `I` (R15), a stack entry (R16). -/
abbrev Word := BitVec 16

/-- The number of a general register, 0 to 15 (R10): no index is ever out of range. -/
abbrev Reg := Fin 16

/-- A key, 0x0 to 0xF (R222). -/
abbrev Key := Fin 16

end Sys2Proof
end

