-- ==== Sys2Proof/Config.lean ====
section
/-! DEFINITION. Config: the sizes of the machine (spec/00_scope.md R5; its FONT is an argument of
State.resetWith, log 8) and the values the spec leaves open.
The open values are constants WITHOUT a body: nothing proved about the model can depend on what they are. -/

namespace Sys2Proof.Config

/-- MEM_SIZE: 4096 bytes, addresses 0x000 to 0xFFF (R5, R23). -/
@[simp] abbrev memSize : Nat := 0x1000

/-- FONT_BASE (R5, R31). -/
@[simp] abbrev fontBase : Nat := 0x050

/-- FONT_GLYPHS times GLYPH_BYTES: 16 glyphs of 5 bytes (R5). -/
@[simp] abbrev fontBytes : Nat := 80

/-- PROG_BASE, where the program is loaded and where execution starts (R5, R241, R246). -/
@[simp] abbrev progBase : Nat := 0x200

/-- PROG_MAX: the longest program (R5, R247). -/
@[simp] abbrev progMax : Nat := 3584

/-- STACK_DEPTH (R5, R16). -/
@[simp] abbrev stackDepth : Nat := 16

/-- DISP_W (R5, R22). -/
@[simp] abbrev dispWidth : Nat := 64

/-- DISP_H (R5, R22). -/
@[simp] abbrev dispHeight : Nat := 32

/-- `random_byte()` at the n-th draw: any byte at each draw, no law (R170, R223). DESIGN CHOICE, safe (log 2). -/
opaque rnd : Nat → Byte

/-- The host's answer to `key_down(k)` at the n-th draw: either Boolean, independently for each query; the key
number is the whole register, so a number above 0xF gets an unconstrained answer too (R175, R176, R222, U6).
DESIGN CHOICE, safe (log 3). -/
opaque keyDown : Nat → Byte → Bool

/-- The host's answer to `await_key()` when the waiting engine asks at the n-th draw: no key yet, or any key
0x0 to 0xF (R178, R222, U21). DESIGN CHOICE, safe (log 4). -/
opaque awaitKey : Nat → Option Key

end Sys2Proof.Config
end

