-- ==== Sys2Proof/Machine/Blit.lean ====
section
/-! DEFINITION. The display surface and its two operations, clear and draw_sprite (spec/44_display.md R161 to R166).
A row is 64 pixels; column 0 is the most significant bit of the row, so a sprite byte, whose bit 7 is its leftmost
pixel (R164, log 16), goes into a row unreversed (log 17). -/

namespace Sys2Proof.Machine

/-- 32 rows of 64 pixels (R22). -/
abbrev Display := Vector (BitVec 64) 32

/-- `disp[y][x]`; no pixel outside the grid is on. -/
def Display.pixel (d : Display) (y x : Nat) : Bool := (d.getD y 0).getMsbD x

/-- All pixels off (R160, R162). -/
def Display.clear : Display := Vector.replicate 32 0

/-- The pixels a sprite byte covers in a row when its leftmost bit is at column `x0`: bits that would fall at column
64 or beyond are clipped, not wrapped (R163, R164). -/
def spriteRow (b : Byte) (x0 : Nat) : BitVec 64 := (b.setWidth 64 <<< 56) >>> x0

/-- What the sprite covers of row `y`: its byte `y - y0` when that row is drawn, else nothing (R161). -/
def spriteAt (sprite : List Byte) (x0 y0 y : Nat) : BitVec 64 :=
  if y0 ≤ y then
    match sprite[y - y0]? with
    | some b => spriteRow b x0
    | none => 0
  else 0

/-- draw_sprite: "each target pixel becomes `old XOR bit`" (R161). `sprite` holds the rows that are drawn. -/
def Display.draw (d : Display) (x0 y0 : Nat) (sprite : List Byte) : Display :=
  Vector.ofFn fun y : Fin 32 => d[y.val] ^^^ spriteAt sprite x0 y0 y.val

/-- "the OR over all drawn positions of `old AND bit`" (R161). -/
def Display.collides (d : Display) (x0 y0 : Nat) (sprite : List Byte) : Bool :=
  (List.range 32).any fun y => d.getD y 0 &&& spriteAt sprite x0 y0 y != 0

end Sys2Proof.Machine
end

