-- ==== Sys2Proof/Machine/Flags.lean ====
section
/-! DEFINITION. Every flag computation of the spec (10_state.md R12). The one flag is VF; each value is 0 or 1. -/

namespace Sys2Proof.Machine

/-- A condition as the number 1 or 0. -/
def flagOf (c : Bool) : Byte := if c then 1 else 0

/-- 8XY4: carry, "1 if `V[X]+V[Y] > 255` else 0" (R126). -/
def carryFlag (a b : Byte) : Byte := flagOf (a.toNat + b.toNat > 255)

/-- 8XY5, 8XY7: 1 when the minuend is strictly greater; equal operands give 0 (R127, R129, C1, U9). -/
def greaterFlag (a b : Byte) : Byte := flagOf (a.toNat > b.toNat)

/-- 8XY6: bit 0, the bit shifted out (R128). -/
def lowBitFlag (a : Byte) : Byte := flagOf (a.getLsbD 0)

/-- 8XYE: bit 7, the bit shifted out, as 0 or 1 (R130). -/
def highBitFlag (a : Byte) : Byte := flagOf (a.getLsbD 7)

/-- FX1E: "(t > 0xFFF) ? 1 : 0" on the unbounded sum (R141). -/
def rangeFlag (t : Nat) : Byte := flagOf (t > 0xFFF)

end Sys2Proof.Machine
end

