-- ==== Sys2Proof/Machine/Operands.lean ====
section
/-! DEFINITION. Operand assembly and the values instructions compute from their operands (spec/30_encoding.md R63,
42_alu.md R131, 43_index_memory.md, 44_display.md R163). Nothing is sign-extended (R7). -/

namespace Sys2Proof.Machine

/-- NNN as a 16-bit value: `zext_16(NNN)` (R63, R101). -/
def absolute (nnn : Addr12) : Word := nnn.setWidth 16

/-- BNNN's target: `zext_16(NNN) + zext_16(V[0])`, no wrap, no mask (R107). -/
def computedTarget (nnn : Addr12) (v0 : Byte) : Word := nnn.setWidth 16 + v0.setWidth 16

/-- Sum of two bytes modulo 256 (R131). -/
def sumByte (a b : Byte) : Byte := BitVec.ofNat 8 (a.toNat + b.toNat)

/-- Difference of two bytes modulo 256 (R131, R7). -/
def diffByte (a b : Byte) : Byte := BitVec.ofInt 8 ((a.toNat : Int) - (b.toNat : Int))

/-- Logical shift right by one, `a div 2` (R128, R131). -/
def halfByte (a : Byte) : Byte := BitVec.ofNat 8 (a.toNat / 2)

/-- Shift left by one, `(2a) mod 256` (R130, R131). -/
def doubleByte (a : Byte) : Byte := BitVec.ofNat 8 (a.toNat * 2)

/-- FX29: `0x050 + (V[X] & 0x0F) * 5` (R142). -/
def glyphAddress (a : Byte) : Word := BitVec.ofNat 16 (Config.fontBase + (a &&& 0x0F).toNat * 5)

/-- FX33: hundreds, tens, ones, each in a byte of its own, most significant first (R143). -/
def bcdDigits (a : Byte) : List Byte :=
  [BitVec.ofNat 8 (a.toNat / 100), BitVec.ofNat 8 (a.toNat / 10 % 10), BitVec.ofNat 8 (a.toNat % 10)]

/-- DXYN's first column: `V[X] mod 64` (R163). -/
def originX (a : Byte) : Nat := a.toNat % Config.dispWidth

/-- DXYN's first row: `V[Y] mod 32` (R163). -/
def originY (a : Byte) : Nat := a.toNat % Config.dispHeight

/-- DXYN: the rows actually drawn, `min(N, 32 - y0)` (R161). -/
def rowsDrawn (n : Nibble) (y0 : Nat) : Nat := min n.toNat (Config.dispHeight - y0)

/-- The lowest address of an access range that is above 0xFFF: `max(I, 0x1000)` (R206). -/
def lowestOffending (i : Word) : Word := if i.toNat ≤ 0x1000 then 0x1000 else i

end Sys2Proof.Machine
end

