-- ==== Sys2Proof/Machine/Memory.lean ====
section
/-! DEFINITION. Memory: 4096 bytes in one canonical form, and its operations (spec/10_state.md R23, R31;
20_memory.md R40 to R47). Addresses are numbers, computed without wrap (R45). -/

namespace Sys2Proof.Machine

/-! ## FONT, and what memory holds at reset -/

/-- The parameter FONT[0..79] (R5, R31): glyph `g` is the bytes `5g` to `5g + 4`, top row first. It is OPEN (decision D17):
a machine is built with any 80 bytes, and no step changes them. -/
abbrev Font := Vector Byte 80

/-- The default bytes of FONT, in the order of R31's table. -/
def defaultFontBytes : List Byte :=
  [0xF0, 0x90, 0x90, 0x90, 0xF0, 0x20, 0x60, 0x20, 0x20, 0x70] ++
  [0xF0, 0x10, 0xF0, 0x80, 0xF0, 0xF0, 0x10, 0xF0, 0x10, 0xF0] ++
  [0x90, 0x90, 0xF0, 0x10, 0x10, 0xF0, 0x80, 0xF0, 0x10, 0xF0] ++
  [0xF0, 0x80, 0xF0, 0x90, 0xF0, 0xF0, 0x10, 0x20, 0x40, 0x40] ++
  [0xF0, 0x90, 0xF0, 0x90, 0xF0, 0xF0, 0x90, 0xF0, 0x10, 0xF0] ++
  [0xF0, 0x90, 0xF0, 0x90, 0x90, 0xE0, 0x90, 0xE0, 0x90, 0xE0] ++
  [0xF0, 0x80, 0x80, 0x80, 0xF0, 0xE0, 0x90, 0x90, 0x90, 0xE0] ++
  [0xF0, 0x80, 0xF0, 0x80, 0xF0, 0xF0, 0x80, 0xF0, 0x80, 0x80]

/-- R31's default of the parameter FONT: the table the spec takes from general knowledge, for want of one in its source.
PRESUMED from the CHIP-8 family, unsafe for a claim that rests on these bytes (log 8). -/
def defaultFont : Font := ⟨defaultFontBytes.toArray, rfl⟩

/-- What an address holds that nothing has written: zero, except FONT at 0x050 to 0x09F (R28, R41). -/
def resetByte (font : Font) (a : Nat) : Byte :=
  if Config.fontBase ≤ a ∧ a < Config.fontBase + Config.fontBytes then font.getD (a - Config.fontBase) 0 else 0

/-! ## Cells: the bytes that differ from a base, by address -/

/-- Bytes listed by address. -/
abbrev Cells := List Host.Cell

/-- Are the addresses strictly rising, all from `low` on? -/
def Cells.risingFrom (low : Nat) (m : Cells) : Bool :=
  match m with
  | [] => true
  | (a, _) :: rest => low ≤ a && risingFrom (a + 1) rest

/-- The byte at an address: the one listed, else the base's. -/
def Cells.read (base : Nat → Byte) (m : Cells) (a : Nat) : Byte :=
  match m with
  | [] => base a
  | (k, b) :: rest => if k = a then b else Cells.read base rest a

/-- Entry `(a, b)` in front of `rest`, unless the base has `b` at `a`. -/
def Cells.cons (base : Nat → Byte) (a : Nat) (b : Byte) (rest : Cells) : Cells :=
  if b = base a then rest else (a, b) :: rest

/-- Store one byte, keeping the addresses rising and every entry different from the base. -/
def Cells.write (base : Nat → Byte) (m : Cells) (a : Nat) (b : Byte) : Cells :=
  match m with
  | [] => Cells.cons base a b []
  | (k, c) :: rest =>
    if a < k then Cells.cons base a b ((k, c) :: rest)
    else if a = k then Cells.cons base a b rest
    else (k, c) :: Cells.write base rest a b

/-! ## Memory -/

/-- Memory (R23): the bytes that differ from the reset contents, by address; and the machine's FONT, the parameter that the
reset contents depend on (R28, R31, log 8). -/
structure Memory where
  /-- the MODEL's: the parameter FONT of this machine, which no step changes -/
  font : Font
  /-- the bytes that differ from the reset contents -/
  cells : Cells
deriving DecidableEq, Repr

/-- Memory at reset, with a given FONT: nothing listed (R28). -/
def Memory.blank (font : Font) : Memory := ⟨font, []⟩

/-- The byte at an address. -/
def Memory.read (m : Memory) (a : Nat) : Byte := Cells.read (resetByte m.font) m.cells a

/-- The canonical form: addresses strictly rising and inside Memory (R23), no entry equal to what its address holds
unwritten. -/
def Memory.wf (m : Memory) : Bool :=
  Cells.risingFrom 0 m.cells && m.cells.all fun c => c.1 < Config.memSize && c.2 != resetByte m.font c.1

/-- Store one byte, keeping the canonical form. -/
def Memory.write (m : Memory) (a : Nat) (b : Byte) : Memory :=
  { m with cells := Cells.write (resetByte m.font) m.cells a b }

/-- Store bytes at `a`, `a + 1`, ... ascending (R47). -/
def Memory.writeList (m : Memory) (a : Nat) (bytes : List Byte) : Memory :=
  match bytes with
  | [] => m
  | b :: rest => Memory.writeList (m.write a b) (a + 1) rest

/-- Are the `n` bytes from `a` on all inside Memory? Nothing is accessed when `n = 0` (R45). -/
def Memory.inBounds (a n : Nat) : Bool := n == 0 || a + n ≤ Config.memSize

end Sys2Proof.Machine
end

