-- ==== Sys2Proof/Machine/State.lean ====
section
/-! DEFINITION. The state of the machine, its reset value, and the reasons a step can stop (spec/10_state.md). -/

namespace Sys2Proof.Machine

/-- The four checked faults (spec/60_exceptions.md R201). -/
inductive Cause
  /-- CALL with 16 entries on the stack (R204) -/
  | stackOverflow
  /-- RET with an empty stack (R205) -/
  | stackUnderflow
  /-- a data access that reaches above 0xFFF (R206) -/
  | memoryBounds
  /-- a fetch at 0xFFF (R207) -/
  | fetchBounds
deriving DecidableEq, Repr

/-- The control register `status` (R24). -/
inductive Status
  /-- the engine may take an instruction step -/
  | running
  /-- FX0A is blocked for a key that goes to register `x` -/
  | waitKey (x : Reg)
  /-- clean end: address exhaustion -/
  | halted
  /-- a checked fault: its cause, the address of the instruction, the value recorded (R203) -/
  | faulted (cause : Cause) (a : Word) (info : Word)
deriving DecidableEq, Repr

/-- The output events (R90). -/
inductive Output
  /-- a word that matches no pattern, and its address (R89) -/
  | unknownOpcode (w : Word) (a : Word)
  /-- after every 00E0 and every DXYN (R90) -/
  | displayUpdated
deriving DecidableEq, Repr

/-- One action of the environment: which agent moves next, and what the host does (R80, R83; log 1). -/
inductive Action
  /-- the host asks for an engine step (R82) -/
  | engine
  /-- the Timer Ticker steps (R216) -/
  | tick
  /-- the host supplies a key to a waiting FX0A (R178, R222) -/
  | key (k : Key)
  /-- the host requests shutdown (R225) -/
  | shutdown
  /-- the host loads a program at 0x200 (R246) -/
  | load (bytes : List Byte)
  /-- the host resets the machine (R240) -/
  | reset
deriving DecidableEq, Repr

/-- Everything the spec gives the machine (10_state.md section 1), and the model's own: the fields `agenda`
and `draws` (logs 1, 5), and beside Memory's bytes the parameter FONT (log 8). -/
structure State where
  /-- general registers V[0] to V[15]; V[15] is VF (R10, R11) -/
  v : Vector Byte 16
  /-- program counter, 16 bits, never masked (R13) -/
  pc : Word
  /-- index register I, 16 bits, never masked (R15) -/
  i : Word
  /-- stack entries S[0] to S[15] (R16) -/
  stack : Vector Word 16
  /-- stack depth, 0 to 16 (R17) -/
  sp : Fin 17
  /-- delay timer (R21) -/
  dt : Byte
  /-- sound timer (R21) -/
  st : Byte
  /-- display: 32 rows of 64 pixels; column 0 is a row's leftmost, most significant bit (R22, log 17) -/
  disp : Vector (BitVec 64) 32
  /-- Memory (R23), and with it the machine's FONT, a parameter and not state (R27, R31, log 8) -/
  mem : Memory
  /-- engine status and, after a fault, what the fault recorded (R24, R203) -/
  status : Status
  /-- the shutdown flag (R25) -/
  shutdown : Bool
  /-- has the first engine step been taken? Implied by R81's window for the program load. DEDUCED (log 7) -/
  started : Bool
  /-- output events, oldest first (R90, log 6) -/
  output : List Output
  /-- the MODEL's: the environment's coming actions, next one first; `[]` asks for an engine step (log 1) -/
  agenda : List Action
  /-- the MODEL's: how many free values have been drawn (log 5) -/
  draws : Nat
deriving DecidableEq, Repr

/-- The machine right after reset, built with a given FONT (R28, R31, R241, R242). Memory, `pc` and V[0] are the source's;
the other values are the spec's decision D1 (log 9); `output`, `agenda`, `draws` are DESIGN CHOICE (logs 6, 1, 5). -/
def State.resetWith (font : Font) : State where
  v := Vector.replicate 16 0
  pc := 0x0200
  i := 0
  stack := Vector.replicate 16 0
  sp := 0
  dt := 0
  st := 0
  disp := Vector.replicate 32 0
  mem := Memory.blank font
  status := .running
  shutdown := false
  started := false
  output := []
  agenda := []
  draws := 0

/-- The machine right after reset, with the spec's default for the parameter FONT (R31; PRESUMED, log 8). -/
def State.reset : State := State.resetWith defaultFont

/-- Why no engine step is taken: the machine is in a final state (R81, R92). A checked fault of the spec is NOT one of
these: taking it is a next state with `status` Faulted (R203). Each is safe: the spec says that no step is enabled
here, and the model takes none (log 20). -/
inductive Fault
  /-- raised by an engine step asked of a machine with `status` Halted; safe -/
  | halted
  /-- raised by an engine step asked of a machine with `status` Faulted; safe -/
  | faulted
  /-- raised by an engine step asked of a machine with `status` Running and `shutdown = 1`; safe -/
  | stopped
deriving DecidableEq, Repr

/-- Why an action of the environment is refused: the spec says that the transition does not exist in this state. Each
is safe: the model has no behaviour where the spec has none (log 20). -/
inductive Refusal
  /-- raised by `exec` alone, for an instruction that has no meaning yet; safe -/
  | notModelled (mnemonic : String)
  /-- raised by a ticker step with `shutdown = 1` (R81, R216); safe -/
  | tickerStopped
  /-- raised by a key supplied while no FX0A waits (R81, R178); safe -/
  | noKeyAwaited
  /-- raised by a program load after the first engine step (R81, R246); safe -/
  | loadAfterStart
  /-- raised by a program of more than 3584 bytes (R247, U18); safe -/
  | programTooLong
  /-- raised by a reset with `shutdown = 0` (R244, U19); safe -/
  | resetWhileRunning
deriving DecidableEq, Repr

/-- What a step answers. -/
abbrev Result := Host.Outcome State Fault Refusal

end Sys2Proof.Machine
end

