-- ==== Sys2Proof/Machine/Ops.lean ====
section
/-! DEFINITION. The named operations over the state that the instructions share (spec/00_scope.md R8). -/

namespace Sys2Proof.Machine.State

/-! ## Registers -/

/-- The register that doubles as the flag, VF (R11). -/
abbrev vf : Reg := 15

/-- `V[r]` (R8, R10). -/
def reg (s : State) (r : Reg) : Byte := s.v[r.val]

/-- `V[r] <- b` (R8, R10): no register is hard-wired. -/
def setReg (s : State) (r : Reg) (b : Byte) : State := { s with v := s.v.set r.val b }

/-- `pc <- target` (R8). -/
def setPc (s : State) (target : Word) : State := { s with pc := target }

/-- "skip next instruction (PC += 2)" when the condition holds (R9, R108): the skipped word is not looked at. -/
def skipIf (s : State) (c : Bool) : State := { s with pc := if c then s.pc + 2 else s.pc }

/-- `I <- w` (R8). -/
def setI (s : State) (w : Word) : State := { s with i := w }

/-- `DT <- b`, one atomic write (R50, R172). -/
def setDt (s : State) (b : Byte) : State := { s with dt := b }

/-- `ST <- b`, one atomic write (R50, R173). -/
def setSt (s : State) (b : Byte) : State := { s with st := b }

/-- The display becomes `d` (R162). -/
def setDisp (s : State) (d : Display) : State := { s with disp := d }

/-- `status <- x` (R24). -/
def setStatus (s : State) (x : Status) : State := { s with status := x }

/-! ## Memory -/

/-- `MemRead(a, 1)` (R8); the caller has checked the range. -/
def readByte (s : State) (a : Nat) : Byte := s.mem.read a

/-- The `n` bytes from `a` on, ascending (R47). -/
def readBytes (s : State) (a n : Nat) : List Byte := (List.range n).map fun k => s.readByte (a + k)

/-- `MemWrite` of bytes at `a`, `a + 1`, ... ascending (R8, R47); the caller has checked the range. -/
def writeBytes (s : State) (a : Nat) (bytes : List Byte) : State := { s with mem := s.mem.writeList a bytes }

/-- `V[0] .. V[x]`, the registers FX55 stores, lowest first (R144, R146). -/
def regsUpTo (s : State) (x : Reg) : List Byte := s.v.toList.take (x.val + 1)

/-- `V[k] <- mem[a + k]` for `k = 0 .. x` (R145). -/
def loadUpTo (s : State) (x : Reg) (a : Nat) : State :=
  { s with v := Vector.ofFn fun k : Fin 16 => if k.val ≤ x.val then s.readByte (a + k.val) else s.v[k.val] }

/-- `I <- (I + n) mod 65536` (R144, R145). -/
def advanceI (s : State) (n : Nat) : State := { s with i := BitVec.ofNat 16 (s.i.toNat + n) }

/-! ## Stack -/

/-- `push(w)` (R19): none when the stack is full. -/
def push (s : State) (w : Word) : Option State :=
  if h : s.sp.val < Config.stackDepth then
    some { s with stack := s.stack.set s.sp.val w, sp := ⟨s.sp.val + 1, Nat.succ_lt_succ h⟩ }
  else none

/-- `pop()` (R20): none when the stack is empty. The entry read is the one at the decremented depth and is not
cleared (R18). -/
def pop (s : State) : Option (Word × State) :=
  if s.sp.val = 0 then none
  else some (s.stack.getD (s.sp.val - 1) 0,
    { s with sp := ⟨s.sp.val - 1, Nat.lt_of_le_of_lt (Nat.sub_le _ _) s.sp.isLt⟩ })

/-! ## Taking a checked fault -/

/-- `raise <Fault>(info)` in a step that began at `pc = a` (R203): the fault is recorded in `status`, `shutdown` is
set, `pc` is the faulting instruction's address again; nothing else changes. -/
def raiseAt (s : State) (a : Word) (cause : Cause) (info : Word) : State :=
  { s with pc := a, status := .faulted cause a info, shutdown := true }

/-- `raise` by an instruction's handler: `pc` already reads `a + 2` there (R84, R88), so `a` is `pc - 2` (log 13). Every
handler raises before its first write, so the advance of `pc` is the one write to discard (R203). -/
def raise (s : State) (cause : Cause) (info : Word) : State := s.raiseAt (s.pc - 2) cause info

/-- The whole of Memory from `I` on has been checked for `n` bytes; a range that leaves Memory raises MemoryBounds
(R45, R206). -/
def checkRange (s : State) (n : Nat) (ok : State) : State :=
  if Memory.inBounds s.i.toNat n then ok else s.raise .memoryBounds (lowestOffending s.i)

/-! ## Outputs and inputs -/

/-- `emit` (R8, R90): appended in execution order. -/
def emit (s : State) (e : Output) : State := { s with output := s.output ++ [e] }

/-- `rnd()`: the byte drawn (R8, R223). -/
def rnd (s : State) : Byte := Config.rnd s.draws

/-- `key_down(k)`: the host's answer (R8, R222). -/
def keyDown (s : State) (k : Byte) : Bool := Config.keyDown s.draws k

/-- One free value has been consumed (log 5). -/
def drawn (s : State) : State := { s with draws := s.draws + 1 }

/-- What the environment does from here on (log 1). -/
def setAgenda (s : State) (rest : List Action) : State := { s with agenda := rest }

/-! ## The parts of an engine step around the instruction -/

/-- The fetch's advance: `pc <- a + 2`, once per engine step, for every word (R60, R84). -/
def advance (s : State) : State := { s with pc := s.pc + 2 }

/-- An engine step has begun: the program load is over (R81, log 7). -/
def begun (s : State) : State := { s with started := true }

/-- Address exhaustion: `status <- Halted`, `shutdown <- 1`, nothing else (R85, R208). -/
def halt (s : State) : State := { s with status := .halted, shutdown := true }

end Sys2Proof.Machine.State
end

