-- ==== Sys2Proof/Machine/Alu.lean ====
section
/-! DEFINITION. Register load, arithmetic and logic (spec/42_alu.md). The assignments of a flag-writing operation run in
the order the spec writes them, each reading what the one before left: flag first, result second (R132, log 14). -/

namespace Sys2Proof.Machine

/-- 6XNN (R120) -/
def execLdImm (x : Reg) (nn : Byte) (s : State) : Result := .next (s.setReg x nn)

/-- 7XNN (R121): no flag. -/
def execAddImm (x : Reg) (nn : Byte) (s : State) : Result := .next (s.setReg x (sumByte (s.reg x) nn))

/-- 8XY0 (R122) -/
def execLdReg (x y : Reg) (s : State) : Result := .next (s.setReg x (s.reg y))

/-- 8XY1 (R123): VF is not changed. -/
def execOr (x y : Reg) (s : State) : Result := .next (s.setReg x (s.reg x ||| s.reg y))

/-- 8XY2 (R124): VF is not changed. -/
def execAnd (x y : Reg) (s : State) : Result := .next (s.setReg x (s.reg x &&& s.reg y))

/-- 8XY3 (R125): VF is not changed. -/
def execXor (x y : Reg) (s : State) : Result := .next (s.setReg x (s.reg x ^^^ s.reg y))

/-- 8XY4 (R126): both operands are read before anything is written. -/
def execAddReg (x y : Reg) (s : State) : Result :=
  let a := s.reg x
  let b := s.reg y
  .next ((s.setReg State.vf (carryFlag a b)).setReg x (sumByte a b))

/-- 8XY5 (R127): the subtraction reads V[X] and V[Y] after the write of VF. -/
def execSub (x y : Reg) (s : State) : Result :=
  let t := s.setReg State.vf (greaterFlag (s.reg x) (s.reg y))
  .next (t.setReg x (diffByte (t.reg x) (t.reg y)))

/-- 8XY6 (R128): in place on V[X], Y ignored (R71). -/
def execShr (x _y : Reg) (s : State) : Result :=
  let t := s.setReg State.vf (lowBitFlag (s.reg x))
  .next (t.setReg x (halfByte (t.reg x)))

/-- 8XY7 (R129): the subtraction reads V[X] and V[Y] after the write of VF. -/
def execSubn (x y : Reg) (s : State) : Result :=
  let t := s.setReg State.vf (greaterFlag (s.reg y) (s.reg x))
  .next (t.setReg x (diffByte (t.reg y) (t.reg x)))

/-- 8XYE (R130): in place on V[X], Y ignored (R71). -/
def execShl (x _y : Reg) (s : State) : Result :=
  let t := s.setReg State.vf (highBitFlag (s.reg x))
  .next (t.setReg x (doubleByte (t.reg x)))

end Sys2Proof.Machine
end

