-- ==== Sys2Proof/Machine/Control.lean ====
section
/-! DEFINITION. Control transfer (spec/41_control_transfer.md). In every meaning `pc` reads the already advanced value (R84). -/

namespace Sys2Proof.Machine

/-- 00EE (R100): `pc <- pop()`, or the fault StackUnderflow, which records 0 (R201, R205). -/
def execRet (s : State) : Result :=
  match s.pop with
  | some (target, t) => .next (t.setPc target)
  | none => .next (s.raise .stackUnderflow 0)

/-- 1NNN (R101) -/
def execJp (nnn : Addr12) (s : State) : Result := .next (s.setPc (absolute nnn))

/-- 2NNN (R102): the value pushed is the advanced `pc`; StackOverflow records it (R201, R204). -/
def execCall (nnn : Addr12) (s : State) : Result :=
  match s.push s.pc with
  | some t => .next (t.setPc (absolute nnn))
  | none => .next (s.raise .stackOverflow s.pc)

/-- 3XNN (R103) -/
def execSeImm (x : Reg) (nn : Byte) (s : State) : Result := .next (s.skipIf (s.reg x == nn))

/-- 4XNN (R104) -/
def execSneImm (x : Reg) (nn : Byte) (s : State) : Result := .next (s.skipIf (s.reg x != nn))

/-- 5XY0 (R105) -/
def execSeReg (x y : Reg) (s : State) : Result := .next (s.skipIf (s.reg x == s.reg y))

/-- 9XY0 (R106) -/
def execSneReg (x y : Reg) (s : State) : Result := .next (s.skipIf (s.reg x != s.reg y))

/-- BNNN (R107): V[0], never V[X]. -/
def execJpV0 (nnn : Addr12) (s : State) : Result := .next (s.setPc (computedTarget nnn (s.reg 0)))

end Sys2Proof.Machine
end

