-- ==== Sys2Proof/Machine/DisplayOps.lean ====
section
/-! DEFINITION. The display instructions (spec/44_display.md). -/

namespace Sys2Proof.Machine

/-- 00E0 (R160): VF is not written; the event is emitted even when nothing changes. -/
def execCls (s : State) : Result := .next ((s.setDisp Display.clear).emit .displayUpdated)

/-- The state after a DXYN whose sprite rows are all inside memory (R161): VF is the collision, the display is XORed
with the sprite rows that are drawn, I is not changed. -/
def State.blit (s : State) (x0 y0 rows : Nat) : State :=
  let sprite := s.readBytes s.i.toNat rows
  ((s.setReg State.vf (flagOf (Display.collides s.disp x0 y0 sprite))).setDisp
    (Display.draw s.disp x0 y0 sprite)).emit .displayUpdated

/-- DXYN (R161): coordinates are read before VF is reset (log 16); only the rows that are drawn are read and checked
(log 11). -/
def execDrw (x y : Reg) (n : Nibble) (s : State) : Result :=
  let x0 := originX (s.reg x)
  let y0 := originY (s.reg y)
  let rows := rowsDrawn n y0
  .next (s.checkRange rows (s.blit x0 y0 rows))

end Sys2Proof.Machine
end

