-- ==== Sys2Proof/Machine/IndexMemory.lean ====
section
/-! DEFINITION. Index register and memory instructions (spec/43_index_memory.md). -/

namespace Sys2Proof.Machine

/-- ANNN (R140) -/
def execLdI (nnn : Addr12) (s : State) : Result := .next (s.setI (absolute nnn))

/-- FX1E (R141): I modulo 65536; VF written every time, after V[X] is read. -/
def execAddI (x : Reg) (s : State) : Result :=
  let t := s.i.toNat + (s.reg x).toNat
  .next ((s.setI (BitVec.ofNat 16 t)).setReg State.vf (rangeFlag t))

/-- FX29 (R142): reads no memory. -/
def execLdF (x : Reg) (s : State) : Result := .next (s.setI (glyphAddress (s.reg x)))

/-- FX33 (R143): three digits at I, I + 1, I + 2; I is not changed. -/
def execLdB (x : Reg) (s : State) : Result :=
  .next (s.checkRange 3 (s.writeBytes s.i.toNat (bcdDigits (s.reg x))))

/-- FX55 (R144): V[0] .. V[X] stored from I on, then I advances by X + 1 (log 15). -/
def execStoreRegs (x : Reg) (s : State) : Result :=
  .next (s.checkRange (x.val + 1) ((s.writeBytes s.i.toNat (s.regsUpTo x)).advanceI (x.val + 1)))

/-- FX65 (R145): V[0] .. V[X] loaded from I on, then I advances by X + 1 (log 15). -/
def execLoadRegs (x : Reg) (s : State) : Result :=
  .next (s.checkRange (x.val + 1) ((s.loadUpTo x s.i.toNat).advanceI (x.val + 1)))

end Sys2Proof.Machine
end

