-- ==== Sys2Proof/Machine/TimerKey.lean ====
section
/-! DEFINITION. Random, timer and key instructions (spec/45_timer_random_key.md). -/

namespace Sys2Proof.Machine

/-- CXNN (R170): the byte drawn is a free value (log 2). -/
def execRnd (x : Reg) (nn : Byte) (s : State) : Result := .next ((s.setReg x (s.rnd &&& nn)).drawn)

/-- FX07 (R171): one atomic read; DT is not changed. -/
def execLdVxDT (x : Reg) (s : State) : Result := .next (s.setReg x s.dt)

/-- FX15 (R172) -/
def execLdDTVx (x : Reg) (s : State) : Result := .next (s.setDt (s.reg x))

/-- FX18 (R173) -/
def execLdSTVx (x : Reg) (s : State) : Result := .next (s.setSt (s.reg x))

/-- EX9E (R175): skips when the key is down; the answer is a free value (logs 3, 18). -/
def execSkp (x : Reg) (s : State) : Result := .next ((s.skipIf (s.keyDown (s.reg x))).drawn)

/-- EXA1 (R176): skips when the key is not down; the answer is a free value (logs 3, 18). -/
def execSknp (x : Reg) (s : State) : Result := .next ((s.skipIf (!s.keyDown (s.reg x))).drawn)

/-- FX0A (R177): the engine blocks; `pc` keeps `a + 2`. The wait ends by `completeKeyWait` (R178). -/
def execLdVxK (x : Reg) (s : State) : Result := .next (s.setStatus (.waitKey x))

end Sys2Proof.Machine
end

