-- ==== Sys2Proof/Syntax.lean ====
section
/-! DEFINITION. The instructions: one constructor per row of spec/opcode_table.json (spec/30_encoding.md R64, 34 rows).
Operands are the fields of R61: `x`, `y` are register numbers, `nn` a byte, `nnn` an absolute address, `n` a row count. -/

namespace Sys2Proof

inductive Instr
  /-- 00E0 `CLS` (R160) -/
  | cls
  /-- 00EE `RET` (R100) -/
  | ret
  /-- 1NNN `JP NNN` (R101) -/
  | jp (nnn : Addr12)
  /-- 2NNN `CALL NNN` (R102) -/
  | call (nnn : Addr12)
  /-- 3XNN `SE Vx,NN` (R103) -/
  | seImm (x : Reg) (nn : Byte)
  /-- 4XNN `SNE Vx,NN` (R104) -/
  | sneImm (x : Reg) (nn : Byte)
  /-- 5XY0 `SE Vx,Vy` (R105) -/
  | seReg (x y : Reg)
  /-- 6XNN `LD Vx,NN` (R120) -/
  | ldImm (x : Reg) (nn : Byte)
  /-- 7XNN `ADD Vx,NN` (R121) -/
  | addImm (x : Reg) (nn : Byte)
  /-- 8XY0 `LD Vx,Vy` (R122) -/
  | ldReg (x y : Reg)
  /-- 8XY1 `OR Vx,Vy` (R123) -/
  | orReg (x y : Reg)
  /-- 8XY2 `AND Vx,Vy` (R124) -/
  | andReg (x y : Reg)
  /-- 8XY3 `XOR Vx,Vy` (R125) -/
  | xorReg (x y : Reg)
  /-- 8XY4 `ADD Vx,Vy` (R126) -/
  | addReg (x y : Reg)
  /-- 8XY5 `SUB Vx,Vy` (R127) -/
  | subReg (x y : Reg)
  /-- 8XY6 `SHR Vx` (R128); `y` is decoded and has no effect (R71, log 29) -/
  | shr (x y : Reg)
  /-- 8XY7 `SUBN Vx,Vy` (R129) -/
  | subnReg (x y : Reg)
  /-- 8XYE `SHL Vx` (R130); `y` is decoded and has no effect (R71, log 29) -/
  | shl (x y : Reg)
  /-- 9XY0 `SNE Vx,Vy` (R106) -/
  | sneReg (x y : Reg)
  /-- ANNN `LD I,NNN` (R140) -/
  | ldI (nnn : Addr12)
  /-- BNNN `JP V0,NNN` (R107) -/
  | jpV0 (nnn : Addr12)
  /-- CXNN `RND Vx,NN` (R170) -/
  | rnd (x : Reg) (nn : Byte)
  /-- DXYN `DRW Vx,Vy,N` (R161) -/
  | drw (x y : Reg) (n : Nibble)
  /-- EX9E `SKP Vx` (R175) -/
  | skp (x : Reg)
  /-- EXA1 `SKNP Vx` (R176) -/
  | sknp (x : Reg)
  /-- FX07 `LD Vx,DT` (R171) -/
  | ldVxDT (x : Reg)
  /-- FX0A `LD Vx,K` (R177) -/
  | ldVxK (x : Reg)
  /-- FX15 `LD DT,Vx` (R172) -/
  | ldDTVx (x : Reg)
  /-- FX18 `LD ST,Vx` (R173) -/
  | ldSTVx (x : Reg)
  /-- FX1E `ADD I,Vx` (R141) -/
  | addI (x : Reg)
  /-- FX29 `LD F,Vx` (R142) -/
  | ldF (x : Reg)
  /-- FX33 `LD B,Vx` (R143) -/
  | ldB (x : Reg)
  /-- FX55 `LD [I],Vx` (R144) -/
  | storeRegs (x : Reg)
  /-- FX65 `LD Vx,[I]` (R145) -/
  | loadRegs (x : Reg)
deriving DecidableEq, Repr

end Sys2Proof
end

