-- ==== Sys2Proof/WellFormed.lean ====
section
/-! DEFINITION. Well-formedness. Every value of every operand field is legal (spec/30_encoding.md R63, R69), and the
operand TYPES of `Instr` hold exactly those values (`Reg` 0 to 15, `Byte`, `Addr12`, `Nibble`): an ill-formed
instruction cannot be written down, so there is nothing left to check of one for the machine to run it (log 29).
Two checks remain that the spec does make: which instruction terms the assembler forms write (R71), and which byte
sequences the host may load (R246, R247). -/

namespace Sys2Proof

/-- Is `i` what an assembler form of R64 writes? Only `SHR Vx` and `SHL Vx` leave a field out: "The assembler form
`SHR Vx` / `SHL Vx` encodes `Y = 0`; a disassembler must accept any `Y`" (R71). The machine runs every `i`. -/
def Instr.assemblerForm (i : Instr) : Bool :=
  match i with
  | .shr _ y => y == 0
  | .shl _ y => y == 0
  | .cls => true
  | .ret => true
  | .jp _ => true
  | .call _ => true
  | .seImm _ _ => true
  | .sneImm _ _ => true
  | .seReg _ _ => true
  | .ldImm _ _ => true
  | .addImm _ _ => true
  | .ldReg _ _ => true
  | .orReg _ _ => true
  | .andReg _ _ => true
  | .xorReg _ _ => true
  | .addReg _ _ => true
  | .subReg _ _ => true
  | .subnReg _ _ => true
  | .sneReg _ _ => true
  | .ldI _ => true
  | .jpV0 _ => true
  | .rnd _ _ => true
  | .drw _ _ _ => true
  | .skp _ => true
  | .sknp _ => true
  | .ldVxDT _ => true
  | .ldVxK _ => true
  | .ldDTVx _ => true
  | .ldSTVx _ => true
  | .addI _ => true
  | .ldF _ => true
  | .ldB _ => true
  | .storeRegs _ => true
  | .loadRegs _ => true

/-- May the host load this byte sequence? At most 3584 bytes; nothing else is checked (R246, R247). -/
def programFits (bytes : List Byte) : Bool := bytes.length ≤ Config.progMax

end Sys2Proof
end

