-- ==== Sys2Proof/Machine/Environment.lean ====
section
/-! DEFINITION. The Timer Ticker and the host (spec/60_exceptions.md R216 to R228, 70_reset_and_hazards.md). An action that
is not enabled is a transition the spec does not have: it is refused by name (R81, log 20). -/

namespace Sys2Proof.Machine

/-- A timer's decrement, floored at 0 (R216). -/
def countDown (t : Byte) : Byte := if t = 0 then 0 else t - 1

/-- Both timers, in one step (R216, log 19); nothing else (R219). -/
def State.ticked (s : State) : State := { s with dt := countDown s.dt, st := countDown s.st }

/-- The ticker step, enabled iff `shutdown = 0` (R81, R216, R218). -/
def tickerStep (s : State) : Result :=
  if s.shutdown then .refused .tickerStopped else .next s.ticked

/-- The end of a key wait: `V[x] <- zext_8(k)`, `status <- Running`, nothing else (R178). -/
def completeKeyWait (x : Reg) (k : Key) (s : State) : State :=
  (s.setReg x (BitVec.ofNat 8 k.val)).setStatus .running

/-- The host supplies a key: enabled while an FX0A waits, with `shutdown` set or not (R81, R178, R225, log 23). -/
def keyStep (k : Key) (s : State) : Result :=
  match s.status with
  | .waitKey x => .next (completeKeyWait x k s)
  | .running => .refused .noKeyAwaited
  | .halted => .refused .noKeyAwaited
  | .faulted _ _ _ => .refused .noKeyAwaited

/-- The engine is asked to step while it waits for a key for V[x]: it asks `await_key`, whose answer is a free value.
No key yet: it goes on waiting, and nothing of the spec's state changes. A key: the wait ends (R178, log 4). -/
def awaitKeyStep (x : Reg) (s : State) : State :=
  match Config.awaitKey s.draws with
  | some k => completeKeyWait x k s.drawn
  | none => s.drawn

/-- The host's shutdown request: always enabled, idempotent, `status` unchanged (R225). -/
def shutdownStep (s : State) : State := { s with shutdown := true }

/-- The program load: the bytes at 0x200 on, nothing else (R246); before the first engine step, at most 3584 bytes
(R81, R247, log 21). -/
def loadStep (bytes : List Byte) (s : State) : Result :=
  if s.started then .refused .loadAfterStart
  else if programFits bytes then .next (s.writeBytes Config.progBase bytes)
  else .refused .programTooLong

/-- Reset: every state element at its reset value (R240); with `shutdown = 0` the transition does not exist (R244).
FONT is the machine's parameter and stays (R31, log 8).
What is not the machine's own is kept: the environment's coming actions, the count of free values drawn, and the
events already emitted (logs 1, 5, 6, 22). -/
def resetStep (s : State) : Result :=
  if s.shutdown then
    .next { State.resetWith s.mem.font with agenda := s.agenda, draws := s.draws, output := s.output }
  else .refused .resetWhileRunning

/-! ## What the host can read; reading changes nothing (R221, R226) -/

/-- The logical pixel grid (R221). -/
def State.grid (s : State) (y x : Nat) : Bool := Display.pixel s.disp y x

/-- The spec's number for a fault cause: a name for the host, which no instruction reads (R201, R202). -/
def Cause.code (c : Cause) : Nat :=
  match c with
  | .stackOverflow => 1
  | .stackUnderflow => 2
  | .memoryBounds => 3
  | .fetchBounds => 4

/-- The set of state the diagnostic dump shows (R226). -/
structure Dump where
  v : Vector Byte 16
  pc : Word
  i : Word
  stack : Vector Word 16
  sp : Fin 17
  dt : Byte
  st : Byte
  status : Status
  shutdown : Bool
deriving DecidableEq, Repr

/-- The diagnostic dump (R226). -/
def State.dump (s : State) : Dump where
  v := s.v
  pc := s.pc
  i := s.i
  stack := s.stack
  sp := s.sp
  dt := s.dt
  st := s.st
  status := s.status
  shutdown := s.shutdown

end Sys2Proof.Machine
end

