-- ==== Sys2Proof/Decode.lean ====
section
/-! DEFINITION. Decoder and encoder (spec/30_encoding.md R60 to R72; 20_memory.md R42). -/

namespace Sys2Proof

/-! ## Fields of an instruction word (R61) -/

/-- `OP` = w[15:12] -/
def opField (w : Word) : Nibble := w.extractLsb' 12 4

/-- `X` = w[11:8] -/
def xField (w : Word) : Nibble := w.extractLsb' 8 4

/-- `Y` = w[7:4] -/
def yField (w : Word) : Nibble := w.extractLsb' 4 4

/-- `N` = w[3:0] -/
def nField (w : Word) : Nibble := w.extractLsb' 0 4

/-- `NN` = w[7:0] -/
def nnField (w : Word) : Byte := w.extractLsb' 0 8

/-- `NNN` = w[11:0] -/
def nnnField (w : Word) : Addr12 := w.extractLsb' 0 12

/-- A 4-bit field names a register: all 16 values do (R10, R63). -/
def regOf (n : Nibble) : Reg := ⟨n.toNat, n.isLt⟩

/-- The field value that names a register. -/
def regBits (r : Reg) : Nibble := BitVec.ofNat 4 r.val

/-- The register field X. -/
def xReg (w : Word) : Reg := regOf (xField w)

/-- The register field Y. -/
def yReg (w : Word) : Reg := regOf (yField w)

/-- Two bytes of Memory as one instruction word, high byte first (R42). -/
def wordOfBytes (hi lo : Byte) : Word := hi ++ lo

/-- The byte at the lower address (R42). -/
def hiByte (w : Word) : Byte := w.extractLsb' 8 8

/-- The byte at the higher address (R42). -/
def loByte (w : Word) : Byte := w.extractLsb' 0 8

/-! ## Decoding (R64 to R72) -/

/-- Family 0: only the two exact words (R65). -/
def decodeFamily0 (w : Word) : Option Instr :=
  if w = 0x00E0#16 then some .cls
  else if w = 0x00EE#16 then some .ret
  else none

/-- Family 8: N selects the operation (R66). -/
def decodeFamily8 (w : Word) : Option Instr :=
  match nField w with
  | 0x0#4 => some (.ldReg (xReg w) (yReg w))
  | 0x1#4 => some (.orReg (xReg w) (yReg w))
  | 0x2#4 => some (.andReg (xReg w) (yReg w))
  | 0x3#4 => some (.xorReg (xReg w) (yReg w))
  | 0x4#4 => some (.addReg (xReg w) (yReg w))
  | 0x5#4 => some (.subReg (xReg w) (yReg w))
  | 0x6#4 => some (.shr (xReg w) (yReg w))
  | 0x7#4 => some (.subnReg (xReg w) (yReg w))
  | 0xE#4 => some (.shl (xReg w) (yReg w))
  | _ => none

/-- Family E: NN selects (R68). -/
def decodeFamilyE (w : Word) : Option Instr :=
  match nnField w with
  | 0x9E#8 => some (.skp (xReg w))
  | 0xA1#8 => some (.sknp (xReg w))
  | _ => none

/-- Family F: NN selects (R69). -/
def decodeFamilyF (w : Word) : Option Instr :=
  match nnField w with
  | 0x07#8 => some (.ldVxDT (xReg w))
  | 0x0A#8 => some (.ldVxK (xReg w))
  | 0x15#8 => some (.ldDTVx (xReg w))
  | 0x18#8 => some (.ldSTVx (xReg w))
  | 0x1E#8 => some (.addI (xReg w))
  | 0x29#8 => some (.ldF (xReg w))
  | 0x33#8 => some (.ldB (xReg w))
  | 0x55#8 => some (.storeRegs (xReg w))
  | 0x65#8 => some (.loadRegs (xReg w))
  | _ => none

/-- The instruction a word stands for, or none: an unknown opcode (R64, R70). Every one of the 65536 words has an
answer (R61). Families 5 and 9 need N = 0 (R67, log 24). -/
def decodeWord (w : Word) : Option Instr :=
  match opField w with
  | 0x0#4 => decodeFamily0 w
  | 0x1#4 => some (.jp (nnnField w))
  | 0x2#4 => some (.call (nnnField w))
  | 0x3#4 => some (.seImm (xReg w) (nnField w))
  | 0x4#4 => some (.sneImm (xReg w) (nnField w))
  | 0x5#4 => if nField w = 0x0#4 then some (.seReg (xReg w) (yReg w)) else none
  | 0x6#4 => some (.ldImm (xReg w) (nnField w))
  | 0x7#4 => some (.addImm (xReg w) (nnField w))
  | 0x8#4 => decodeFamily8 w
  | 0x9#4 => if nField w = 0x0#4 then some (.sneReg (xReg w) (yReg w)) else none
  | 0xA#4 => some (.ldI (nnnField w))
  | 0xB#4 => some (.jpV0 (nnnField w))
  | 0xC#4 => some (.rnd (xReg w) (nnField w))
  | 0xD#4 => some (.drw (xReg w) (yReg w) (nField w))
  | 0xE#4 => decodeFamilyE w
  | _ => decodeFamilyF w

/-- Why bytes are no instruction. -/
inductive DecodeError
  /-- fewer than two bytes are left (R60: every instruction is two bytes) -/
  | truncated
  /-- the word matches no pattern (R70); the machine reports it and goes on (R89) -/
  | unknownOpcode (w : Word)
deriving DecidableEq, Repr

/-- Decoding bytes in memory order: the instruction and the bytes after it, or the reason there is none. -/
def decodeBytes (bytes : List Byte) : Except DecodeError (Instr × List Byte) :=
  match bytes with
  | hi :: lo :: rest =>
    match decodeWord (wordOfBytes hi lo) with
    | some i => .ok (i, rest)
    | none => .error (.unknownOpcode (wordOfBytes hi lo))
  | _ => .error .truncated

/-! ## Encoding, from the same table (R62, R64) -/

/-- Format XYN: four nibbles. -/
def wordXYN (op : Nibble) (x y : Reg) (n : Nibble) : Word := op ++ regBits x ++ regBits y ++ n

/-- Formats XNN and XFN: a family nibble, a register, a byte. -/
def wordXNN (op : Nibble) (x : Reg) (nn : Byte) : Word := op ++ regBits x ++ nn

/-- Format NNN: a family nibble and a 12-bit address. -/
def wordNNN (op : Nibble) (nnn : Addr12) : Word := op ++ nnn

/-- The word of an instruction (R64). -/
def encode (i : Instr) : Word :=
  match i with
  | .cls => 0x00E0#16
  | .ret => 0x00EE#16
  | .jp nnn => wordNNN 0x1 nnn
  | .call nnn => wordNNN 0x2 nnn
  | .seImm x nn => wordXNN 0x3 x nn
  | .sneImm x nn => wordXNN 0x4 x nn
  | .seReg x y => wordXYN 0x5 x y 0x0
  | .ldImm x nn => wordXNN 0x6 x nn
  | .addImm x nn => wordXNN 0x7 x nn
  | .ldReg x y => wordXYN 0x8 x y 0x0
  | .orReg x y => wordXYN 0x8 x y 0x1
  | .andReg x y => wordXYN 0x8 x y 0x2
  | .xorReg x y => wordXYN 0x8 x y 0x3
  | .addReg x y => wordXYN 0x8 x y 0x4
  | .subReg x y => wordXYN 0x8 x y 0x5
  | .shr x y => wordXYN 0x8 x y 0x6
  | .subnReg x y => wordXYN 0x8 x y 0x7
  | .shl x y => wordXYN 0x8 x y 0xE
  | .sneReg x y => wordXYN 0x9 x y 0x0
  | .ldI nnn => wordNNN 0xA nnn
  | .jpV0 nnn => wordNNN 0xB nnn
  | .rnd x nn => wordXNN 0xC x nn
  | .drw x y n => wordXYN 0xD x y n
  | .skp x => wordXNN 0xE x 0x9E
  | .sknp x => wordXNN 0xE x 0xA1
  | .ldVxDT x => wordXNN 0xF x 0x07
  | .ldVxK x => wordXNN 0xF x 0x0A
  | .ldDTVx x => wordXNN 0xF x 0x15
  | .ldSTVx x => wordXNN 0xF x 0x18
  | .addI x => wordXNN 0xF x 0x1E
  | .ldF x => wordXNN 0xF x 0x29
  | .ldB x => wordXNN 0xF x 0x33
  | .storeRegs x => wordXNN 0xF x 0x55
  | .loadRegs x => wordXNN 0xF x 0x65

/-- The bytes of an instruction as Memory holds them, high byte first (R42, R60). -/
def encodeBytes (i : Instr) : List Byte := [hiByte (encode i), loByte (encode i)]

/-! ## The opcode table as data (R64) -/

/-- One row of R64: a word `w` selects it iff `w &&& mask = pattern`. -/
structure OpcodeRow where
  mask : Word
  pattern : Word
deriving DecidableEq, Repr

/-- Does the word select the row? -/
def OpcodeRow.selects (r : OpcodeRow) (w : Word) : Bool := w &&& r.mask == r.pattern

/-- The row of R64 an instruction belongs to: its mask and its match. -/
def Instr.row (i : Instr) : OpcodeRow :=
  match i with
  | .cls => ⟨0xFFFF, 0x00E0⟩
  | .ret => ⟨0xFFFF, 0x00EE⟩
  | .jp _ => ⟨0xF000, 0x1000⟩
  | .call _ => ⟨0xF000, 0x2000⟩
  | .seImm _ _ => ⟨0xF000, 0x3000⟩
  | .sneImm _ _ => ⟨0xF000, 0x4000⟩
  | .seReg _ _ => ⟨0xF00F, 0x5000⟩
  | .ldImm _ _ => ⟨0xF000, 0x6000⟩
  | .addImm _ _ => ⟨0xF000, 0x7000⟩
  | .ldReg _ _ => ⟨0xF00F, 0x8000⟩
  | .orReg _ _ => ⟨0xF00F, 0x8001⟩
  | .andReg _ _ => ⟨0xF00F, 0x8002⟩
  | .xorReg _ _ => ⟨0xF00F, 0x8003⟩
  | .addReg _ _ => ⟨0xF00F, 0x8004⟩
  | .subReg _ _ => ⟨0xF00F, 0x8005⟩
  | .shr _ _ => ⟨0xF00F, 0x8006⟩
  | .subnReg _ _ => ⟨0xF00F, 0x8007⟩
  | .shl _ _ => ⟨0xF00F, 0x800E⟩
  | .sneReg _ _ => ⟨0xF00F, 0x9000⟩
  | .ldI _ => ⟨0xF000, 0xA000⟩
  | .jpV0 _ => ⟨0xF000, 0xB000⟩
  | .rnd _ _ => ⟨0xF000, 0xC000⟩
  | .drw _ _ _ => ⟨0xF000, 0xD000⟩
  | .skp _ => ⟨0xF0FF, 0xE09E⟩
  | .sknp _ => ⟨0xF0FF, 0xE0A1⟩
  | .ldVxDT _ => ⟨0xF0FF, 0xF007⟩
  | .ldVxK _ => ⟨0xF0FF, 0xF00A⟩
  | .ldDTVx _ => ⟨0xF0FF, 0xF015⟩
  | .ldSTVx _ => ⟨0xF0FF, 0xF018⟩
  | .addI _ => ⟨0xF0FF, 0xF01E⟩
  | .ldF _ => ⟨0xF0FF, 0xF029⟩
  | .ldB _ => ⟨0xF0FF, 0xF033⟩
  | .storeRegs _ => ⟨0xF0FF, 0xF055⟩
  | .loadRegs _ => ⟨0xF0FF, 0xF065⟩

/-- The 34 rows of R64 in the spec's order. -/
def opcodeTable : List OpcodeRow :=
  [⟨0xFFFF, 0x00E0⟩, ⟨0xFFFF, 0x00EE⟩, ⟨0xF000, 0x1000⟩, ⟨0xF000, 0x2000⟩, ⟨0xF000, 0x3000⟩, ⟨0xF000, 0x4000⟩] ++
  [⟨0xF00F, 0x5000⟩, ⟨0xF000, 0x6000⟩, ⟨0xF000, 0x7000⟩, ⟨0xF00F, 0x8000⟩, ⟨0xF00F, 0x8001⟩, ⟨0xF00F, 0x8002⟩] ++
  [⟨0xF00F, 0x8003⟩, ⟨0xF00F, 0x8004⟩, ⟨0xF00F, 0x8005⟩, ⟨0xF00F, 0x8006⟩, ⟨0xF00F, 0x8007⟩, ⟨0xF00F, 0x800E⟩] ++
  [⟨0xF00F, 0x9000⟩, ⟨0xF000, 0xA000⟩, ⟨0xF000, 0xB000⟩, ⟨0xF000, 0xC000⟩, ⟨0xF000, 0xD000⟩, ⟨0xF0FF, 0xE09E⟩] ++
  [⟨0xF0FF, 0xE0A1⟩, ⟨0xF0FF, 0xF007⟩, ⟨0xF0FF, 0xF00A⟩, ⟨0xF0FF, 0xF015⟩, ⟨0xF0FF, 0xF018⟩, ⟨0xF0FF, 0xF01E⟩] ++
  [⟨0xF0FF, 0xF029⟩, ⟨0xF0FF, 0xF033⟩, ⟨0xF0FF, 0xF055⟩, ⟨0xF0FF, 0xF065⟩]

/-! ## The host's reading of a table word -/

/-- The instruction decoded from a word numbered as spec/opcode_table.json numbers it (bit 0 the least significant
of the first word): its `nbits` bits are laid out high byte first (R42) and given to the decoder. -/
def decodeTableWord (nbits w : Nat) : Option Instr :=
  let word : Word := BitVec.ofNat 16 (w % 2 ^ nbits)
  match decodeBytes [hiByte word, loByte word] with
  | .ok (i, _) => some i
  | .error _ => none

end Sys2Proof
end

