-- ==== Sys2Proof/Machine/Fetch.lean ====
section
/-! DEFINITION. The fetch and the parts of an engine step that are not an instruction (spec/40_engine_cycle.md). -/

namespace Sys2Proof.Machine

/-- What the fetch finds (R84 to R86). -/
inductive Fetched
  /-- `pc >= 0x1000` (R85) -/
  | exhausted
  /-- `pc = 0xFFF`: the second byte would be at 0x1000 (R86) -/
  | lastByte
  /-- the word at `pc` (R84) -/
  | word (w : Word)
deriving DecidableEq, Repr

/-- The fetch: two bytes at `pc` and `pc + 1`, big-endian, whatever the parity of `pc` (R42, R44, R84 to R86). It
never wraps to address 0 (R46). -/
def fetch (s : State) : Fetched :=
  if s.pc.toNat ≥ Config.memSize then .exhausted
  else if s.pc.toNat + 1 ≥ Config.memSize then .lastByte
  else .word (wordOfBytes (s.readByte s.pc.toNat) (s.readByte (s.pc.toNat + 1)))

/-- FetchBounds(0x1000): nothing is read, `pc` stays (R86, R207). -/
def fetchFault (s : State) : State := s.raiseAt s.pc .fetchBounds 0x1000

/-- An unknown opcode `w` at `pc`: reported, and execution goes on at `pc + 2` (R89, R209). -/
def reportUnknown (w : Word) (s : State) : State := s.advance.emit (.unknownOpcode w s.pc)

/-- What the engine step does with `w` at `pc` and the handler `run` (R87, R88): the handler of the instruction runs
on the advanced state, or the unknown opcode is reported. -/
def dispatchWord (run : Instr → State → Result) (w : Word) (s : State) : Result :=
  match decodeWord w with
  | some i => run i s.advance
  | none => .next (reportUnknown w s)

/-- One instruction step of the engine (R84 to R89): the first one ends the window for the program load (R81). -/
def instructionStep (run : Instr → State → Result) (s : State) : Result :=
  match fetch s with
  | .exhausted => .next s.begun.halt
  | .lastByte => .next (fetchFault s.begun)
  | .word w => dispatchWord run w s.begun

end Sys2Proof.Machine
end

