-- ==== Sys2Proof/Machine/Step.lean ====
section
/-! DEFINITION. One step of the machine: the next action of the agenda, or an engine step when the agenda is empty
(spec/40_engine_cycle.md R80 to R82, log 1). -/

namespace Sys2Proof.Machine

/-- The engine is asked to step (R81, R82, R92): an instruction step when it runs, the wait when it waits for a key,
and a named stop in a final state (log 20). -/
def engineStep (s : State) : Result :=
  match s.status with
  | .running => if s.shutdown then .fault .stopped else instructionStep exec s
  | .waitKey x => .next (awaitKeyStep x s)
  | .halted => .fault .halted
  | .faulted _ _ _ => .fault .faulted

/-- One action of the environment (R80, R83). -/
def act (e : Action) (s : State) : Result :=
  match e with
  | .engine => engineStep s
  | .tick => tickerStep s
  | .key k => keyStep k s
  | .shutdown => .next (shutdownStep s)
  | .load bytes => loadStep bytes s
  | .reset => resetStep s

/-- One step: the head of the agenda is taken off and done; an empty agenda asks for an engine step. -/
def step (s : State) : Host.Outcome State Fault Refusal :=
  match s.agenda with
  | [] => engineStep s
  | e :: rest => act e (s.setAgenda rest)

/-- `s` with the instruction of table word `w` stored where the next step fetches, everything set so that this very
step runs it: `pc` stays where two bytes can be fetched and is 0x200 otherwise; the engine runs, nothing else is due
(log 26). -/
def State.withFetchWord (s : State) (nbits w : Nat) : State :=
  let word : Word := BitVec.ofNat 16 (w % 2 ^ nbits)
  let pc : Word := if s.pc.toNat + 1 < Config.memSize then s.pc else 0x0200
  { s with
    pc := pc
    mem := s.mem.writeList pc.toNat [hiByte word, loByte word]
    status := .running
    shutdown := false
    agenda := [] }

end Sys2Proof.Machine
end

