-- ==== Sys2Proof/Safety.lean ====
section
/-! DEFINITION. The terms claims use: whose turn it is, final states, the invariant, and which instructions the spec lets
write which state (spec/10_state.md sections 1 and 3, R12 to R22, R32; 40_engine_cycle.md R81, R92). -/

namespace Sys2Proof.Machine

/-! ## Turns and final states -/

/-- The next step is the engine's, and `rest` is what the environment does after it (log 1). -/
def State.engineNext (s : State) (rest : List Action) : Prop :=
  (s.agenda = [] ∧ rest = []) ∨ s.agenda = .engine :: rest

/-- The engine may take an instruction step (R81). -/
def State.canRun (s : State) : Prop := s.status = .running ∧ s.shutdown = false

/-- `status` is Halted or Faulted (R24, R92). -/
def Status.isFinal (x : Status) : Bool :=
  match x with
  | .running => false
  | .waitKey _ => false
  | .halted => true
  | .faulted _ _ _ => true

/-! ## The invariant -/

/-- What holds in every reachable state (R32, and the canonical form of memory): memory is canonical; `pc` is at most
0x10FE (R14); a stack entry is at most 0x1000 (R85); a final status goes with the shutdown flag (R85, R203); after a
fault `pc` is the faulting instruction's address (R203). -/
structure State.Inv (s : State) : Prop where
  memory_canonical : Memory.wf s.mem = true
  pc_bound : s.pc.toNat ≤ 0x10FE
  stack_bound : ∀ k : Fin 16, (s.stack[k.val]).toNat ≤ 0x1000
  final_shutdown : s.status.isFinal = true → s.shutdown = true
  fault_address : ∀ cause a info, s.status = .faulted cause a info → s.pc = a

/-! ## What DXYN draws -/

/-- The pixel `b[7 - c]` of the sprite that DXYN draws at column `x` and row `y` of the grid, or nothing when that
position is not drawn (R161, R163, R164): the pseudocode's loop, read pixel by pixel. -/
def State.spriteBit (s : State) (x0 y0 rows : Nat) (y x : Nat) : Bool :=
  decide (y0 ≤ y ∧ y < y0 + rows ∧ x0 ≤ x ∧ x < x0 + 8) &&
    (s.mem.read (s.i.toNat + (y - y0))).getLsbD (7 - (x - x0))

end Sys2Proof.Machine

namespace Sys2Proof

/-! ## Which instructions write which state (10_state.md section 1) -/

/-- Does the spec let `i` write register `r`? The destination, VF for the flag writers (R12), V[0] to V[X] for FX65. -/
def Instr.writesReg (i : Instr) (r : Reg) : Bool :=
  match i with
  | .ldImm x _ => r == x
  | .addImm x _ => r == x
  | .ldReg x _ => r == x
  | .orReg x _ => r == x
  | .andReg x _ => r == x
  | .xorReg x _ => r == x
  | .addReg x _ => r == x || r == Machine.State.vf
  | .subReg x _ => r == x || r == Machine.State.vf
  | .shr x _ => r == x || r == Machine.State.vf
  | .subnReg x _ => r == x || r == Machine.State.vf
  | .shl x _ => r == x || r == Machine.State.vf
  | .rnd x _ => r == x
  | .ldVxDT x => r == x
  | .addI _ => r == Machine.State.vf
  | .drw _ _ _ => r == Machine.State.vf
  | .loadRegs x => r ≤ x
  | _ => false

/-- ANNN, FX1E, FX29, FX55, FX65 write I (R15). -/
def Instr.writesI (i : Instr) : Bool :=
  match i with
  | .ldI _ => true
  | .addI _ => true
  | .ldF _ => true
  | .storeRegs _ => true
  | .loadRegs _ => true
  | _ => false

/-- Jumps, calls, returns and skips write `pc` beyond the fetch's advance (R14). -/
def Instr.writesPc (i : Instr) : Bool :=
  match i with
  | .jp _ => true
  | .jpV0 _ => true
  | .call _ => true
  | .ret => true
  | .seImm _ _ => true
  | .sneImm _ _ => true
  | .seReg _ _ => true
  | .sneReg _ _ => true
  | .skp _ => true
  | .sknp _ => true
  | _ => false

/-- 2NNN writes stack entries; 2NNN and 00EE write SP (R16). -/
def Instr.usesStack (i : Instr) : Bool :=
  match i with
  | .call _ => true
  | .ret => true
  | _ => false

/-- FX33 and FX55 write Memory (R40). -/
def Instr.writesMem (i : Instr) : Bool :=
  match i with
  | .ldB _ => true
  | .storeRegs _ => true
  | _ => false

/-- 00E0 and DXYN write the display (R22). -/
def Instr.writesDisp (i : Instr) : Bool :=
  match i with
  | .cls => true
  | .drw _ _ _ => true
  | _ => false

/-- FX07, FX15 and FX18 touch a timer (R21, R50). -/
def Instr.usesTimer (i : Instr) : Bool :=
  match i with
  | .ldVxDT _ => true
  | .ldDTVx _ => true
  | .ldSTVx _ => true
  | _ => false

end Sys2Proof
end

