-- ==== Sys2Proof/Certificates/Slice0/Obligations.lean ====
section
/-! DEFINITION. The statements for the provers. Each docstring names what it formalises; where a clause rests on a decision
of the spec (D<n>) or on a choice of the model (log <n>), it says so. -/

open Sys2Proof Sys2Proof.Machine

/-! ## Encoding -/

/-- R61: the six fields are the bit slices the table gives, and `NN = Y ++ N`, `NNN = X ++ Y ++ N`. -/
def Obligations.WordFieldsAreTheirBitSlices : Prop :=
  ∀ w : Word,
    (∀ k < 4, (opField w).getLsbD k = w.getLsbD (12 + k)) ∧
    (∀ k < 4, (xField w).getLsbD k = w.getLsbD (8 + k)) ∧
    (∀ k < 4, (yField w).getLsbD k = w.getLsbD (4 + k)) ∧
    (∀ k < 4, (nField w).getLsbD k = w.getLsbD k) ∧
    (∀ k < 8, (nnField w).getLsbD k = w.getLsbD k) ∧
    (∀ k < 12, (nnnField w).getLsbD k = w.getLsbD k) ∧
    nnField w = yField w ++ nField w ∧
    nnnField w = xField w ++ yField w ++ nField w

/-- Words written out from the patterns of 30_encoding.md section 2 (and the examples of 95_test_vectors.md) decode to the
instructions they stand for; words outside every pattern decode to none (0000 and
5121: decision D16). -/
def Obligations.WordsOfTheSpecDecodeAsWritten : Prop :=
  decodeTableWord 16 0x6105 = some (.ldImm 1 0x05) ∧
  decodeTableWord 16 0x7003 = some (.addImm 0 0x03) ∧
  decodeTableWord 16 0x00E0 = some .cls ∧
  decodeTableWord 16 0x00EE = some .ret ∧
  decodeTableWord 16 0x220A = some (.call 0x20A) ∧
  decodeTableWord 16 0xD7A5 = some (.drw 7 10 5) ∧
  decodeTableWord 16 0x8AB4 = some (.addReg 10 11) ∧
  decodeTableWord 16 0x81A6 = some (.shr 1 10) ∧
  decodeTableWord 16 0xA300 = some (.ldI 0x300) ∧
  decodeTableWord 16 0xE1A1 = some (.sknp 1) ∧
  decodeTableWord 16 0xFA65 = some (.loadRegs 10) ∧
  decodeTableWord 16 0x0000 = none ∧
  decodeTableWord 16 0x5121 = none ∧
  decodeTableWord 16 0x812F = none ∧
  decodeTableWord 16 0xF156 = none

/-- Decoding the bytes of an instruction gives that instruction, with every operand, and the bytes after it. -/
def Obligations.DecodingEncodedBytesGivesTheInstruction : Prop :=
  ∀ (i : Instr) (rest : List Byte), decodeBytes (encodeBytes i ++ rest) = .ok (i, rest)

/-- Every word that decodes is the word of what it decodes to: no bit of a decoded word is dropped. -/
def Obligations.EncodingADecodedWordGivesTheWord : Prop :=
  ∀ (w : Word) (i : Instr), decodeWord w = some i → encode i = w

/-- The unknown words are exactly those listed in 30_encoding.md section 3 (decision D16 for families 0, 5 and 9). -/
def Obligations.UnknownWordsAreExactlyTheListedOnes : Prop :=
  ∀ w : Word, decodeWord w = none ↔
    (w.toNat / 4096 = 0 ∧ w.toNat ≠ 0x00E0 ∧ w.toNat ≠ 0x00EE) ∨
    ((w.toNat / 4096 = 5 ∨ w.toNat / 4096 = 9) ∧ w.toNat % 16 ≠ 0) ∨
    (w.toNat / 4096 = 8 ∧ w.toNat % 16 ∈ [0x8, 0x9, 0xA, 0xB, 0xC, 0xD, 0xF]) ∨
    (w.toNat / 4096 = 0xE ∧ w.toNat % 256 ∉ [0x9E, 0xA1]) ∨
    (w.toNat / 4096 = 0xF ∧ w.toNat % 256 ∉ [0x07, 0x0A, 0x15, 0x18, 0x1E, 0x29, 0x33, 0x55, 0x65])

/-- A word decodes to an instruction iff some row of the opcode table selects it; the row is then that
instruction's, and no other row selects the word (patterns are matched literally: decision D16). -/
def Obligations.DecodedWordSelectsExactlyItsTableRow : Prop :=
  ∀ w : Word,
    (decodeWord w = none ↔ ∀ r ∈ opcodeTable, r.selects w = false) ∧
    ∀ i, decodeWord w = some i → i.row ∈ opcodeTable ∧ ∀ r ∈ opcodeTable, (r.selects w = true ↔ r = i.row)

/-! ## The engine step -/

/-- R42: the instruction word is the two bytes at `pc` and `pc + 1`, high byte first. -/
def Obligations.FetchReadsTwoBytesHighByteFirst : Prop :=
  ∀ s : State, s.pc.toNat + 1 < 0x1000 →
    ∃ w : Word, fetch s = .word w ∧
      w.extractLsb' 8 8 = s.mem.read s.pc.toNat ∧ w.extractLsb' 0 8 = s.mem.read (s.pc.toNat + 1)

/-- When the engine moves next and the word at `pc` decodes to `i`, the step is `exec i` on the state with `pc` advanced
by 2, the engine started (log 7) and the agenda's head taken off (log 1). -/
def Obligations.StepRunsTheDecodedInstruction : Prop :=
  ∀ (s : State) (rest : List Action) (i : Instr),
    s.engineNext rest → s.canRun → s.pc.toNat + 1 < 0x1000 →
    decodeWord (wordOfBytes (s.mem.read s.pc.toNat) (s.mem.read (s.pc.toNat + 1))) = some i →
    step s = exec i { s with pc := s.pc + 2, started := true, agenda := rest }

/-- `withFetchWord` makes the very next step run the instruction of the table word, in every state with a canonical memory
(the model's form of a program placed from outside: log 26). -/
def Obligations.WithFetchWordRunsTheTableWord : Prop :=
  ∀ (s : State) (nbits w : Nat) (i : Instr),
    Memory.wf s.mem = true → decodeTableWord nbits w = some i →
    step (s.withFetchWord nbits w) =
      exec i { s.withFetchWord nbits w with pc := (s.withFetchWord nbits w).pc + 2, started := true }

/-- A word that matches no pattern is a reported no-op: the event, `pc + 2`, nothing else of the spec's state (what the
report carries is the spec's decision D20). The model's own bookkeeping moves too: the engine counts as started (log 7,
DEDUCED: a step that reports an unknown opcode sets the bit) and the agenda's head is taken off (log 1, DESIGN CHOICE). -/
def Obligations.UnknownOpcodeIsAReportedNoOp : Prop :=
  ∀ (s : State) (rest : List Action) (w : Word),
    s.engineNext rest → s.canRun → s.pc.toNat + 1 < 0x1000 →
    w = wordOfBytes (s.mem.read s.pc.toNat) (s.mem.read (s.pc.toNat + 1)) → decodeWord w = none →
    step s = .next { s with
      pc := s.pc + 2, started := true, agenda := rest, output := s.output ++ [.unknownOpcode w s.pc] }

/-- Address exhaustion halts cleanly (decision D6); a fetch at 0xFFF raises FetchBounds and leaves `pc` (decision D5). In
both the model's own bookkeeping moves too: the engine counts as started (log 7, DEDUCED: a step that halts or faults sets
the bit) and the agenda's head is taken off (log 1, DESIGN CHOICE). -/
def Obligations.FetchBeyondMemoryHaltsOrFaults : Prop :=
  ∀ (s : State) (rest : List Action), s.engineNext rest → s.canRun →
    (0x1000 ≤ s.pc.toNat →
      step s = .next { s with status := .halted, shutdown := true, started := true, agenda := rest }) ∧
    (s.pc.toNat = 0xFFF →
      step s = .next { s with
        status := .faulted .fetchBounds 0xFFF 0x1000, shutdown := true, started := true, agenda := rest })

/-- No engine step is taken in Halted, in Faulted, or in Running with `shutdown = 1`: the model's named stops (log 20). -/
def Obligations.FinalStatesTakeNoEngineStep : Prop :=
  ∀ (s : State) (rest : List Action), s.engineNext rest →
    (s.status = .halted → step s = .fault .halted) ∧
    (∀ cause a info, s.status = .faulted cause a info → step s = .fault .faulted) ∧
    (s.status = .running → s.shutdown = true → step s = .fault .stopped)

/-- A step that takes a fault changes nothing but `status` and `shutdown` (decision D2): `pc` is the faulting
instruction's address, every register, the stack, memory, the display, the timers and the events are as before.
(`started` and `agenda` are the model's: logs 1, 7.) -/
def Obligations.FaultingStepIsPrecise : Prop :=
  ∀ (s t : State) (rest : List Action) (cause : Cause) (a info : Word),
    s.engineNext rest → s.canRun → step s = .next t → t.status = .faulted cause a info →
    a = s.pc ∧
    t = { s with
      status := .faulted cause s.pc info, shutdown := true, started := true, agenda := rest }

/-- Which instruction raises which fault, on what condition and recording what (decisions D2 to D4, D12): each instruction
raises at most one kind, and the others none. -/
def Obligations.EachFaultComesFromItsInstructions : Prop :=
  ∀ (i : Instr) (s t : State) (cause : Cause) (a info : Word),
    s.status = .running → exec i s = .next t → t.status = .faulted cause a info →
    a = s.pc - 2 ∧
    ((cause = .stackOverflow ∧ (∃ nnn, i = .call nnn) ∧ s.sp = 16 ∧ info = s.pc) ∨
     (cause = .stackUnderflow ∧ i = .ret ∧ s.sp = 0 ∧ info = 0) ∨
     (cause = .memoryBounds ∧ info.toNat = max s.i.toNat 0x1000 ∧
       ((∃ x, i = .ldB x ∧ s.i.toNat + 2 > 0xFFF) ∨
        (∃ x : Reg, (i = .storeRegs x ∨ i = .loadRegs x) ∧ s.i.toNat + x.val > 0xFFF) ∨
        (∃ x y n, i = .drw x y n ∧ 0 < min n.toNat (32 - (s.v[y.val]).toNat % 32) ∧
          s.i.toNat + min n.toNat (32 - (s.v[y.val]).toNat % 32) - 1 > 0xFFF))))

/-! ## Control transfer -/

/-- JP and JP V0: `pc` becomes NNN, or `NNN + V[0]` unmasked (decision D7); nothing else changes. -/
def Obligations.JumpsGoToTheirTarget : Prop :=
  ∀ (nnn : Addr12) (s : State),
    exec (.jp nnn) s = .next { s with pc := BitVec.ofNat 16 nnn.toNat } ∧
    ∃ t, exec (.jpV0 nnn) s = .next t ∧ t = { s with pc := t.pc } ∧ t.pc.toNat = nnn.toNat + (s.v[0]).toNat

/-- CALL with room on the stack pushes the advanced `pc` (at S[SP], then SP + 1: decision D24) and goes to NNN; nothing else
changes. -/
def Obligations.CallPushesTheAdvancedPc : Prop :=
  ∀ (nnn : Addr12) (s : State) (h : s.sp.val < 16),
    exec (.call nnn) s = .next { s with
      pc := BitVec.ofNat 16 nnn.toNat
      stack := s.stack.set s.sp.val s.pc
      sp := ⟨s.sp.val + 1, Nat.succ_lt_succ h⟩ }

/-- RET with an entry on the stack goes to the newest entry, which stays in its place (decision D24); nothing else changes. -/
def Obligations.ReturnGoesToTheNewestEntry : Prop :=
  ∀ (s : State) (d : Fin 16), s.sp.val = d.val + 1 →
    exec .ret s = .next { s with pc := s.stack[d.val], sp := d.castSucc }

/-- CALL on a full stack and RET on an empty one take their faults (decisions D2, D3): the fault is recorded with the
instruction's address `pc - 2` and the value of 60_exceptions.md section 2, and nothing else changes. -/
def Obligations.StackMisuseFaults : Prop :=
  ∀ s : State,
    (s.sp = 16 → ∀ nnn, exec (.call nnn) s = .next { s with
      pc := s.pc - 2, status := .faulted .stackOverflow (s.pc - 2) s.pc, shutdown := true }) ∧
    (s.sp = 0 → exec .ret s = .next { s with
      pc := s.pc - 2, status := .faulted .stackUnderflow (s.pc - 2) 0, shutdown := true })

/-- "CALL followed immediately by RET restores PC to the instruction address immediately after the CALL": from wherever
the RET is executed (any advanced `pc`), and with the entries below the call as they were. -/
def Obligations.CallThenReturnResumesAfterTheCall : Prop :=
  ∀ (nnn : Addr12) (s : State) (p : Word), s.sp.val < 16 →
    ∃ t u, exec (.call nnn) s = .next t ∧ exec .ret { t with pc := p } = .next u ∧
      u.pc = s.pc ∧ u = { s with stack := u.stack } ∧
      ∀ k : Fin 16, k.val ≠ s.sp.val → u.stack[k.val] = s.stack[k.val]

/-- The four register skips add 2 to the advanced `pc` exactly when their condition holds; nothing else changes. -/
def Obligations.SkipsFollowTheirCondition : Prop :=
  ∀ (x y : Reg) (nn : Byte) (s : State),
    exec (.seImm x nn) s = .next { s with pc := if s.v[x.val] = nn then s.pc + 2 else s.pc } ∧
    exec (.sneImm x nn) s = .next { s with pc := if s.v[x.val] = nn then s.pc else s.pc + 2 } ∧
    exec (.seReg x y) s = .next { s with pc := if s.v[x.val] = s.v[y.val] then s.pc + 2 else s.pc } ∧
    exec (.sneReg x y) s = .next { s with pc := if s.v[x.val] = s.v[y.val] then s.pc else s.pc + 2 }

/-! ## Register load, arithmetic, logic -/

/-- R120: the words 6XNN load NN into V[X] and change nothing else. -/
def Obligations.LoadImmediateSetsTheRegister : Prop :=
  ∀ (x : Reg) (nn : Byte),
    decodeWord (BitVec.ofNat 16 (0x6000 + x.val * 256 + nn.toNat)) = some (.ldImm x nn) ∧
    ∀ s : State, exec (.ldImm x nn) s = .next { s with v := s.v.set x.val nn }

/-- R121: the words 7XNN add NN to V[X] modulo 256; VF is not written (unless X is F), nothing else changes. -/
def Obligations.AddImmediateWrapsWithoutFlag : Prop :=
  ∀ (x : Reg) (nn : Byte),
    decodeWord (BitVec.ofNat 16 (0x7000 + x.val * 256 + nn.toNat)) = some (.addImm x nn) ∧
    ∀ s : State, ∃ t, exec (.addImm x nn) s = .next t ∧ t = { s with v := s.v.set x.val t.v[x.val] } ∧
      (t.v[x.val]).toNat = ((s.v[x.val]).toNat + nn.toNat) % 256

/-- R122: the words 8XY0 copy V[Y] to V[X] and change nothing else. -/
def Obligations.LoadRegisterCopies : Prop :=
  ∀ x y : Reg,
    decodeWord (BitVec.ofNat 16 (0x8000 + x.val * 256 + y.val * 16)) = some (.ldReg x y) ∧
    ∀ s : State, exec (.ldReg x y) s = .next { s with v := s.v.set x.val s.v[y.val] }

/-- R123: the words 8XY1 OR V[Y] into V[X] bit by bit; VF is not changed (unless X is F), nothing else changes. -/
def Obligations.OrActsBitByBit : Prop :=
  ∀ x y : Reg,
    decodeWord (BitVec.ofNat 16 (0x8001 + x.val * 256 + y.val * 16)) = some (.orReg x y) ∧
    ∀ s : State, ∃ t, exec (.orReg x y) s = .next t ∧ t = { s with v := s.v.set x.val t.v[x.val] } ∧
      ∀ k < 8, (t.v[x.val]).getLsbD k = ((s.v[x.val]).getLsbD k || (s.v[y.val]).getLsbD k)

/-- R124: the words 8XY2 AND V[Y] into V[X] bit by bit; VF is not changed (unless X is F), nothing else changes. -/
def Obligations.AndActsBitByBit : Prop :=
  ∀ x y : Reg,
    decodeWord (BitVec.ofNat 16 (0x8002 + x.val * 256 + y.val * 16)) = some (.andReg x y) ∧
    ∀ s : State, ∃ t, exec (.andReg x y) s = .next t ∧ t = { s with v := s.v.set x.val t.v[x.val] } ∧
      ∀ k < 8, (t.v[x.val]).getLsbD k = ((s.v[x.val]).getLsbD k && (s.v[y.val]).getLsbD k)

/-- R125: the words 8XY3 XOR V[Y] into V[X] bit by bit; `X = Y` clears it; VF is not changed (unless X is F), nothing else
changes. -/
def Obligations.XorActsBitByBit : Prop :=
  ∀ x y : Reg,
    decodeWord (BitVec.ofNat 16 (0x8003 + x.val * 256 + y.val * 16)) = some (.xorReg x y) ∧
    ∀ s : State, ∃ t, exec (.xorReg x y) s = .next t ∧ t = { s with v := s.v.set x.val t.v[x.val] } ∧
      (∀ k < 8, (t.v[x.val]).getLsbD k = ((s.v[x.val]).getLsbD k ^^ (s.v[y.val]).getLsbD k)) ∧
      (x = y → t.v[x.val] = 0)

/-- 8XY4: the sum modulo 256 and the carry, both operands read first; with X = F the sum overwrites the flag (statement
order: decision D9). -/
def Obligations.AddRegistersGivesSumAndCarry : Prop :=
  ∀ (x y : Reg) (s : State) (sum : Nat), sum = (s.v[x.val]).toNat + (s.v[y.val]).toNat →
    (x ≠ 15 → exec (.addReg x y) s = .next { s with
      v := (s.v.set 15 (if 255 < sum then 1 else 0)).set x.val (BitVec.ofNat 8 (sum % 256)) }) ∧
    (x = 15 → exec (.addReg x y) s = .next { s with v := s.v.set 15 (BitVec.ofNat 8 (sum % 256)) })

/-- 8XY5 and 8XY7: the difference modulo 256, and VF = 1 exactly when the minuend is strictly greater (C1); the four cases
of VF as an operand, the flag being written first (decision D9). -/
def Obligations.SubtractionsGiveDifferenceAndFlag : Prop :=
  ∀ (x y : Reg) (s : State) (a b : Nat), a = (s.v[x.val]).toNat → b = (s.v[y.val]).toNat →
    (x ≠ 15 → y ≠ 15 →
      exec (.subReg x y) s = .next { s with
        v := (s.v.set 15 (if b < a then 1 else 0)).set x.val (BitVec.ofNat 8 ((a + 256 - b) % 256)) } ∧
      exec (.subnReg x y) s = .next { s with
        v := (s.v.set 15 (if a < b then 1 else 0)).set x.val (BitVec.ofNat 8 ((b + 256 - a) % 256)) }) ∧
    (x ≠ 15 → y = 15 →
      exec (.subReg x y) s = .next { s with
        v := (s.v.set 15 (if b < a then 1 else 0)).set x.val
          (BitVec.ofNat 8 ((a + 256 - (if b < a then 1 else 0)) % 256)) } ∧
      exec (.subnReg x y) s = .next { s with
        v := (s.v.set 15 (if a < b then 1 else 0)).set x.val
          (BitVec.ofNat 8 (((if a < b then 1 else 0) + 256 - a) % 256)) }) ∧
    (x = 15 → y ≠ 15 →
      exec (.subReg x y) s = .next { s with
        v := s.v.set 15 (BitVec.ofNat 8 (((if b < a then 1 else 0) + 256 - b) % 256)) } ∧
      exec (.subnReg x y) s = .next { s with
        v := s.v.set 15 (BitVec.ofNat 8 ((b + 256 - (if a < b then 1 else 0)) % 256)) }) ∧
    (x = 15 → y = 15 →
      exec (.subReg x y) s = .next { s with v := s.v.set 15 0 } ∧
      exec (.subnReg x y) s = .next { s with v := s.v.set 15 0 })

/-- 8XY6 and 8XYE: V[X] shifted by one in place, VF the bit shifted out, whatever Y is; with X = F the shifted flag
overwrites it (decision D9): 0 for SHR, twice the old bit 7 for SHL. -/
def Obligations.ShiftsActInPlaceAndIgnoreY : Prop :=
  ∀ (x y : Reg) (s : State) (a : Nat), a = (s.v[x.val]).toNat →
    (x ≠ 15 →
      exec (.shr x y) s = .next { s with
        v := (s.v.set 15 (BitVec.ofNat 8 (a % 2))).set x.val (BitVec.ofNat 8 (a / 2)) } ∧
      exec (.shl x y) s = .next { s with
        v := (s.v.set 15 (BitVec.ofNat 8 (a / 128))).set x.val (BitVec.ofNat 8 (a * 2 % 256)) }) ∧
    (x = 15 →
      exec (.shr x y) s = .next { s with v := s.v.set 15 0 } ∧
      exec (.shl x y) s = .next { s with v := s.v.set 15 (BitVec.ofNat 8 (2 * (a / 128))) })

/-! ## Index register and memory -/

/-- R140: the words ANNN set I to NNN, zero-extended, and change nothing else. -/
def Obligations.LoadIndexSetsI : Prop :=
  ∀ nnn : Addr12,
    decodeWord (BitVec.ofNat 16 (0xA000 + nnn.toNat)) = some (.ldI nnn) ∧
    ∀ s : State, exec (.ldI nnn) s = .next { s with i := BitVec.ofNat 16 nnn.toNat }

/-- FX1E: I becomes the sum modulo 65536, unmasked (decision D8); VF is 1 when the unbounded sum exceeds 0xFFF, else 0,
written every time, V[X] being read before. -/
def Obligations.AddToIndexSetsIAndFlag : Prop :=
  ∀ (x : Reg) (s : State) (sum : Nat), sum = s.i.toNat + (s.v[x.val]).toNat →
    exec (.addI x) s = .next { s with
      i := BitVec.ofNat 16 (sum % 65536)
      v := s.v.set 15 (if 0xFFF < sum then 1 else 0) }

/-- R142: the words FX29 set I to the address of the glyph of V[X]'s low nibble, at most 0x09B, and change nothing else
(no memory is read). -/
def Obligations.FontAddressComesFromTheLowNibble : Prop :=
  ∀ x : Reg,
    decodeWord (BitVec.ofNat 16 (0xF029 + x.val * 256)) = some (.ldF x) ∧
    ∀ s : State, ∃ t, exec (.ldF x) s = .next t ∧ t = { s with i := t.i } ∧
      t.i.toNat = 0x050 + (s.v[x.val]).toNat % 16 * 5 ∧ 0x050 ≤ t.i.toNat ∧ t.i.toNat ≤ 0x09B

/-- FX33 in range: three decimal digits at I, I + 1, I + 2, most significant first; every other byte reads as before;
nothing but memory changes. The bytes are stored from the address the meaning uses, `s.i.toNat`. -/
def Obligations.BcdStoresThreeDigits : Prop :=
  ∀ (x : Reg) (s : State), s.i.toNat + 2 ≤ 0xFFF →
    ∃ t, exec (.ldB x) s = .next t ∧ t = { s with mem := { s.mem with cells := t.mem.cells } } ∧
      (Memory.wf s.mem = true →
        t.mem.read s.i.toNat = BitVec.ofNat 8 ((s.v[x.val]).toNat / 100) ∧
        t.mem.read (s.i.toNat + 1) = BitVec.ofNat 8 ((s.v[x.val]).toNat / 10 % 10) ∧
        t.mem.read (s.i.toNat + 2) = BitVec.ofNat 8 ((s.v[x.val]).toNat % 10) ∧
        ∀ a, (a < s.i.toNat ∨ s.i.toNat + 2 < a) → t.mem.read a = s.mem.read a)

/-- FX55 in range: V[0] to V[X] at I to I + X, every other byte reads as before, I advances by X + 1 modulo 65536
(decision D10); nothing else changes. -/
def Obligations.StoreRegistersWritesTheRangeAndAdvancesI : Prop :=
  ∀ (x : Reg) (s : State), s.i.toNat + x.val ≤ 0xFFF →
    ∃ t, exec (.storeRegs x) s = .next t ∧
      t = { s with mem := { s.mem with cells := t.mem.cells }, i := BitVec.ofNat 16 ((s.i.toNat + x.val + 1) % 65536) } ∧
      (Memory.wf s.mem = true →
        (∀ k : Reg, k ≤ x → t.mem.read (s.i.toNat + k.val) = s.v[k.val]) ∧
        ∀ a, (a < s.i.toNat ∨ s.i.toNat + x.val < a) → t.mem.read a = s.mem.read a)

/-- FX65 in range: V[0] to V[X] from I to I + X, the registers above X as before, memory unchanged, I advances by X + 1
modulo 65536 (decision D10); nothing else changes. -/
def Obligations.LoadRegistersReadsTheRangeAndAdvancesI : Prop :=
  ∀ (x : Reg) (s : State), s.i.toNat + x.val ≤ 0xFFF →
    ∃ t, exec (.loadRegs x) s = .next t ∧
      t = { s with v := t.v, i := BitVec.ofNat 16 ((s.i.toNat + x.val + 1) % 65536) } ∧
      (∀ k : Reg, k ≤ x → t.v[k.val] = s.mem.read (s.i.toNat + k.val)) ∧
      ∀ k : Reg, x < k → t.v[k.val] = s.v[k.val]

/-- A data access whose range leaves Memory takes MemoryBounds, recording max(I, 0x1000), before anything is written
(decisions D2, D4, D12): FX33, FX55, FX65, and DXYN when a row that would be drawn lies above 0xFFF. -/
def Obligations.AccessBeyondMemoryFaults : Prop :=
  ∀ (s t : State),
    t = { s with
      pc := s.pc - 2
      status := .faulted .memoryBounds (s.pc - 2) (BitVec.ofNat 16 (max s.i.toNat 0x1000))
      shutdown := true } →
    (0xFFF < s.i.toNat + 2 → ∀ x, exec (.ldB x) s = .next t) ∧
    (∀ x : Reg, 0xFFF < s.i.toNat + x.val →
      exec (.storeRegs x) s = .next t ∧ exec (.loadRegs x) s = .next t) ∧
    (∀ (x y : Reg) (n : Nibble), 0 < min n.toNat (32 - (s.v[y.val]).toNat % 32) →
      0xFFF < s.i.toNat + min n.toNat (32 - (s.v[y.val]).toNat % 32) - 1 → exec (.drw x y n) s = .next t)

/-- FX65 from the same I and the same memory puts back into V[0] to V[X] exactly what FX55 took from them. -/
def Obligations.LoadRegistersUndoesStoreRegisters : Prop :=
  ∀ (x : Reg) (s u : State), Memory.wf s.mem = true → s.i.toNat + x.val ≤ 0xFFF →
    ∃ t w, exec (.storeRegs x) s = .next t ∧
      exec (.loadRegs x) { u with mem := t.mem, i := s.i } = .next w ∧
      ∀ k : Reg, k ≤ x → w.v[k.val] = s.v[k.val]

/-- A store is seen by the very next fetch (decision D18): FX55 with X at least 1 and I at the next instruction makes that
instruction the word of V[0] and V[1]. -/
def Obligations.StoreIsSeenByTheNextFetch : Prop :=
  ∀ (x : Reg) (s : State), Memory.wf s.mem = true → 1 ≤ x → s.i = s.pc → s.i.toNat + x.val ≤ 0xFFF →
    ∃ t, exec (.storeRegs x) s = .next t ∧ fetch t = .word (s.v[0] ++ s.v[1])

/-! ## Display -/

/-- R160: the word 00E0 turns every pixel off and emits DisplayUpdated; nothing else changes. -/
def Obligations.ClearTurnsEveryPixelOff : Prop :=
  decodeWord 0x00E0#16 = some .cls ∧
  ∀ s : State, ∃ t, exec .cls s = .next t ∧
    (∀ y < 32, ∀ x < 64, t.grid y x = false) ∧
    t = { s with disp := t.disp, output := s.output ++ [.displayUpdated] }

/-- DXYN with every row that is drawn inside Memory (rows: decision D12; coordinates before the reset of VF: decision D11).
That bit 7 of a sprite byte is its leftmost pixel is a choice (decision D11; R164 and G2 mark it general knowledge; log 16,
PRESUMED), and the pixel clause, through `State.spriteBit`, rests on it:
each pixel of the grid becomes old XOR sprite bit, VF is 1 exactly when a pixel that was on met a sprite bit, every
other register is as before, DisplayUpdated is emitted; nothing else changes, I and memory included. -/
def Obligations.DrawXorsTheSpriteAndReportsCollision : Prop :=
  ∀ (x y : Reg) (n : Nibble) (s : State) (x0 y0 rows : Nat),
    x0 = (s.v[x.val]).toNat % 64 → y0 = (s.v[y.val]).toNat % 32 → rows = min n.toNat (32 - y0) →
    (rows = 0 ∨ s.i.toNat + rows - 1 ≤ 0xFFF) →
    ∃ t, exec (.drw x y n) s = .next t ∧
      t = { s with v := t.v, disp := t.disp, output := s.output ++ [.displayUpdated] } ∧
      (∀ r < 32, ∀ c < 64, t.grid r c = (s.grid r c ^^ s.spriteBit x0 y0 rows r c)) ∧
      (t.v[15] = 1 ∧ (∃ r < 32, ∃ c < 64, s.grid r c = true ∧ s.spriteBit x0 y0 rows r c = true) ∨
       t.v[15] = 0 ∧ ¬ ∃ r < 32, ∃ c < 64, s.grid r c = true ∧ s.spriteBit x0 y0 rows r c = true) ∧
      ∀ k : Reg, k ≠ 15 → t.v[k.val] = s.v[k.val]

/-- "Drawing the same sprite at the same location twice in succession ... restores the original pixel state": for X and Y
other than F (the first draw writes VF), and the second draw reports a collision exactly when the first turned a
pixel on. That both draws complete when only the rows that are drawn lie inside Memory is decision D12 (log 11). -/
def Obligations.DrawingTwiceRestoresTheDisplay : Prop :=
  ∀ (x y : Reg) (n : Nibble) (s : State) (x0 y0 rows : Nat) (p : Word),
    x ≠ 15 → y ≠ 15 →
    x0 = (s.v[x.val]).toNat % 64 → y0 = (s.v[y.val]).toNat % 32 → rows = min n.toNat (32 - y0) →
    (rows = 0 ∨ s.i.toNat + rows - 1 ≤ 0xFFF) →
    ∃ t u, exec (.drw x y n) s = .next t ∧ exec (.drw x y n) { t with pc := p } = .next u ∧
      u.disp = s.disp ∧
      (u.v[15] = 1 ↔ ∃ r < 32, ∃ c < 64, s.grid r c = false ∧ t.grid r c = true)

/-! ## Random, timers, keys -/

/-- CXNN: whatever byte is drawn (a free value, decision D13, log 2), V[X] gets it masked by NN and the draw is consumed;
nothing else changes. -/
def Obligations.RandomIsTheDrawMaskedByNN : Prop :=
  ∀ (x : Reg) (nn : Byte) (s : State),
    exec (.rnd x nn) s = .next { s with
      v := s.v.set x.val (Config.rnd s.draws &&& nn), draws := s.draws + 1 } ∧
    ∀ k < 8, nn.getLsbD k = false → (Config.rnd s.draws &&& nn).getLsbD k = false

/-- FX07 copies DT to V[X], FX15 copies V[X] to DT, FX18 copies V[X] to ST; each changes nothing else. -/
def Obligations.TimerInstructionsCopyTheirValue : Prop :=
  ∀ (x : Reg) (s : State),
    exec (.ldVxDT x) s = .next { s with v := s.v.set x.val s.dt } ∧
    exec (.ldDTVx x) s = .next { s with dt := s.v[x.val] } ∧
    exec (.ldSTVx x) s = .next { s with st := s.v[x.val] }

/-- EX9E and EXA1: on one answer of the host (a free value, decision D14, log 3) exactly one of the two skips: SKP when the
key is down, SKNP when it is not; nothing else changes but the answer being consumed. The polarity, which of the two skips
on a key that is down, is a choice (R175 and G3 mark it general knowledge; log 18, PRESUMED). -/
def Obligations.KeySkipsAreComplementary : Prop :=
  ∀ (x : Reg) (s : State),
    exec (.skp x) s = .next { s with
      pc := if Config.keyDown s.draws s.v[x.val] = true then s.pc + 2 else s.pc, draws := s.draws + 1 } ∧
    exec (.sknp x) s = .next { s with
      pc := if Config.keyDown s.draws s.v[x.val] = true then s.pc else s.pc + 2, draws := s.draws + 1 }

/-- FX0A blocks the engine for a key that goes to V[X] (decision D14); `pc` keeps its advanced value, nothing else changes. -/
def Obligations.KeyWaitBlocksTheEngine : Prop :=
  ∀ (x : Reg) (s : State), exec (.ldVxK x) s = .next { s with status := .waitKey x }

/-- The end of a key wait: a supplied key goes to V[x] and the engine runs again, with shutdown requested or not (decision
D22); an engine step asked of the waiting machine either goes on waiting or ends the wait in the same way with some key
(the answer is a free value, log 4). The agenda's head is taken off (log 1). -/
def Obligations.KeyWaitEndsWithAKey : Prop :=
  ∀ (s : State) (x : Reg) (rest : List Action), s.status = .waitKey x →
    (∀ k : Key, s.agenda = .key k :: rest →
      step s = .next { s with
        agenda := rest, v := s.v.set x.val (BitVec.ofNat 8 k.val), status := .running }) ∧
    (s.engineNext rest →
      step s = .next { s with agenda := rest, draws := s.draws + 1 } ∨
      ∃ k : Key, step s = .next { s with
        agenda := rest, draws := s.draws + 1, v := s.v.set x.val (BitVec.ofNat 8 k.val), status := .running })

/-! ## The ticker and the host -/

/-- The ticker step decrements both timers, floored at 0, in one transition (decision D15), enabled iff `shutdown = 0`; it
changes nothing else, whatever the engine's status; the agenda's head is taken off (log 1). -/
def Obligations.TickerStepDecrementsBothTimers : Prop :=
  ∀ (s : State) (rest : List Action), s.agenda = .tick :: rest →
    (s.shutdown = false → ∃ t, step s = .next t ∧
      t = { s with agenda := rest, dt := t.dt, st := t.st } ∧
      t.dt.toNat = s.dt.toNat - 1 ∧ t.st.toNat = s.st.toNat - 1) ∧
    (s.shutdown = true → step s = .refused .tickerStopped)

/-- After n ticker steps with no engine write in between each timer reads max(v - n, 0); their n entries are taken off the
agenda (log 1). -/
def Obligations.TicksCountDownToZeroAndStay : Prop :=
  ∀ (n : Nat) (s : State) (rest : List Action), s.shutdown = false →
    s.agenda = List.replicate n .tick ++ rest →
    ∃ t : State, Host.Core.run Sys2Proof.core n s = .next t ∧
      t = { s with agenda := rest, dt := t.dt, st := t.st } ∧
      t.dt.toNat = s.dt.toNat - n ∧ t.st.toNat = s.st.toNat - n

/-- The ticker and the engine share the timers only: for every instruction but FX07, FX15 and FX18 a ticker step before it
and a ticker step after it lead to the same state. -/
def Obligations.TickerCommutesWithOtherInstructions : Prop :=
  ∀ (i : Instr) (s : State), i.usesTimer = false →
    ∃ t, exec i s = .next t ∧ exec i s.ticked = .next t.ticked

/-- "no instruction reads `ST`": with another value in ST every instruction does the same, and leaves that value in ST
unless it is FX18. -/
def Obligations.NoInstructionReadsTheSoundTimer : Prop :=
  ∀ (i : Instr) (s : State) (b : Byte),
    ∃ t, exec i s = .next t ∧
      ((∀ x, i ≠ .ldSTVx x) → exec i { s with st := b } = .next { t with st := b }) ∧
      ((∃ x, i = .ldSTVx x) → exec i { s with st := b } = .next t)

/-- The shutdown request sets the flag and nothing else; from then on the ticker does not step, and a running engine takes
no step (log 20). The agenda's head is taken off (log 1). -/
def Obligations.ShutdownStopsEngineAndTicker : Prop :=
  ∀ (s : State) (rest : List Action), s.agenda = .shutdown :: rest →
    step s = .next { s with shutdown := true, agenda := rest } ∧
    step { s with shutdown := true, agenda := .tick :: rest } = .refused .tickerStopped ∧
    (s.status = .running → step { s with shutdown := true, agenda := .engine :: rest } = .fault .stopped)

/-- The program load places byte k at 0x200 + k and changes nothing else; it is refused after the first engine step and for
more than 3584 bytes (decision D21). That the first step has been taken is the bit of log 7; the agenda's head is taken off
(log 1). -/
def Obligations.ProgramLoadPlacesTheBytes : Prop :=
  ∀ (s : State) (bytes : List Byte) (rest : List Action), s.agenda = .load bytes :: rest →
    (s.started = true → step s = .refused .loadAfterStart) ∧
    (s.started = false → 3584 < bytes.length → step s = .refused .programTooLong) ∧
    (s.started = false → bytes.length ≤ 3584 → ∃ t, step s = .next t ∧
      t = { s with agenda := rest, mem := { s.mem with cells := t.mem.cells } } ∧
      (Memory.wf s.mem = true → ∀ a, t.mem.read a =
        if 0x200 ≤ a ∧ a < 0x200 + bytes.length then bytes.getD (a - 0x200) 0 else s.mem.read a))

/-- Reset, enabled exactly when `shutdown = 1`, gives every state element its value of 10_state.md section 12 (all but
Memory, pc and V[0] are decision D1); FONT, a parameter, is the machine's own before and after, and its 80 bytes stand
at 0x050 to 0x09F, whatever they are (decision D17, log 8); what is not the machine's own is kept (logs 22, 1). -/
def Obligations.ResetGivesEveryElementItsValue : Prop :=
  ∀ (s : State) (rest : List Action), s.agenda = .reset :: rest →
    (s.shutdown = false → step s = .refused .resetWhileRunning) ∧
    (s.shutdown = true → ∃ t, step s = .next t ∧
      t.pc = 0x0200 ∧ (∀ k : Reg, t.v[k.val] = 0) ∧ t.i = 0 ∧ t.sp = 0 ∧ (∀ k : Reg, t.stack[k.val] = 0) ∧
      t.dt = 0 ∧ t.st = 0 ∧ (∀ y < 32, ∀ x < 64, t.grid y x = false) ∧
      t.status = .running ∧ t.shutdown = false ∧ t.started = false ∧
      (∀ a, (a < 0x050 ∨ 0x09F < a) → t.mem.read a = 0) ∧
      (∀ k : Fin 80, t.mem.read (0x050 + k.val) = s.mem.font[k.val]) ∧ t.mem.font = s.mem.font ∧
      t.agenda = rest ∧ t.draws = s.draws ∧ t.output = s.output)

/-! ## The whole machine -/

/-- The invariant of 10_state.md section 13 (as the model states it: `State.Inv`) holds at reset, whatever the
parameter FONT is (decision D17, log 8). The stack entries 0, status Running and shutdown 0 it rests on are the spec's
decision D1 (log 9). -/
def Obligations.ResetMeetsTheInvariant : Prop := State.reset.Inv ∧ ∀ font : Font, (State.resetWith font).Inv

/-- Every step, the engine's, the ticker's or the host's, keeps the invariant: memory canonical, `pc` at most 0x10FE,
stack entries at most 0x1000, a final status with the shutdown flag set, and `pc` at the faulting instruction
(what a fault and a halt leave: decisions D2 and D6; `pc` unmasked: decision D7; the canonical form: log 25). -/
def Obligations.EveryStepKeepsTheInvariant : Prop :=
  ∀ s t : State, s.Inv → step s = .next t → t.Inv

/-- Nothing but reset clears the shutdown flag or leaves Halted or Faulted. -/
def Obligations.OnlyResetLeavesAFinalState : Prop :=
  ∀ s t : State, step s = .next t → (¬ ∃ rest, s.agenda = .reset :: rest) →
    (s.shutdown = true → t.shutdown = true) ∧
    (s.status.isFinal = true → t.status = s.status)

/-- The column "written by" of 10_state.md section 1, for every instruction that does not fault: I, the stack, memory, the
display, the timers and the status change only by the instructions named there, and `pc` keeps its advanced value
unless the instruction is a jump, call, return or skip; FONT (log 8), the bit of log 7 and the agenda (log 1) never change. -/
def Obligations.EachStateElementHasItsWriters : Prop :=
  ∀ (i : Instr) (s t : State), s.status = .running → exec i s = .next t → t.status.isFinal = false →
    (i.writesI = false → t.i = s.i) ∧
    (i.usesStack = false → t.stack = s.stack ∧ t.sp = s.sp) ∧
    (i.writesMem = false → ∀ a, t.mem.read a = s.mem.read a) ∧ t.mem.font = s.mem.font ∧
    (i.writesDisp = false → t.disp = s.disp ∧ t.output = s.output) ∧
    ((∀ x, i ≠ .ldDTVx x) → t.dt = s.dt) ∧
    ((∀ x, i ≠ .ldSTVx x) → t.st = s.st) ∧
    ((∀ x, i ≠ .ldVxK x) → t.status = .running) ∧
    (i.writesPc = false → t.pc = s.pc) ∧
    t.shutdown = s.shutdown ∧ t.started = s.started ∧ t.agenda = s.agenda

/-- A general register changes only where the spec names it: the destination, VF for the seven flag writers, V[0] to V[X]
for FX65; in particular OR, AND, XOR, 7XNN and CLS leave VF alone. -/
def Obligations.RegistersChangeOnlyWhereNamed : Prop :=
  ∀ (i : Instr) (s t : State) (r : Reg), exec i s = .next t → i.writesReg r = false → t.v[r.val] = s.v[r.val]

/-- Memory is plain data (the representation is the model's: log 25): two canonical memories of
machines with one FONT (log 8) that read the same at every address are the same. -/
def Obligations.CanonicalMemoriesAreEqualWhenTheyReadEqual : Prop :=
  ∀ m n : Memory, m.font = n.font → m.wf = true → n.wf = true → (∀ a, m.read a = n.read a) → m = n

/-- FONT is a parameter (decision D17, log 8): a machine reset with ANY 80 bytes holds them at 0x050 to 0x09F and zero
elsewhere, and no step, the engine's, the ticker's or the host's, a reset included, changes a machine's parameter. -/
def Obligations.AnyFontIsTheMachinesAndStays : Prop :=
  (∀ font : Font,
    (∀ k : Fin 80, (State.resetWith font).mem.read (0x050 + k.val) = font[k.val]) ∧
    ∀ a, (a < 0x050 ∨ 0x09F < a) → (State.resetWith font).mem.read a = 0) ∧
  ∀ s t : State, step s = .next t → t.mem.font = s.mem.font
end

