-- ==== Sys2Proof/Laws/Blit.lean ====
section
/-! SUPPORT. The row-wise blit, pixel by pixel (spec/44_display.md R161 to R165). -/

namespace Sys2Proof.Machine

theorem pixel_eq {d : Display} {y : Nat} (hy : y < 32) (x : Nat) : d.pixel y x = (d[y]).getMsbD x := by
  simp [Display.pixel, Vector.getD, hy]

@[simp] theorem pixel_clear (y x : Nat) : Display.clear.pixel y x = false := by
  by_cases hy : y < 32 <;> simp [Display.pixel, Vector.getD, Display.clear, hy]

theorem pixel_draw (d : Display) (x0 y0 : Nat) (sprite : List Byte) {y : Nat} (hy : y < 32) (x : Nat) :
    (d.draw x0 y0 sprite).pixel y x = (d.pixel y x ^^ (spriteAt sprite x0 y0 y).getMsbD x) := by
  rw [pixel_eq hy, pixel_eq hy]
  simp [Display.draw]

/-- The sprite byte's bit `7 - c` lands in column `x0 + c`; nothing lands at column 64 or beyond (R163, R164). -/
theorem getMsbD_spriteRow (b : Byte) (x0 : Nat) {x : Nat} (hx : x < 64) :
    (spriteRow b x0).getMsbD x = (decide (x0 ≤ x ∧ x < x0 + 8) && b.getLsbD (7 - (x - x0))) := by
  rw [BitVec.getMsbD_eq_getLsbD]
  simp only [spriteRow, BitVec.getLsbD_ushiftRight, BitVec.getLsbD_shiftLeft, BitVec.getLsbD_setWidth, hx,
    decide_true, Bool.true_and]
  by_cases h1 : x0 ≤ x
  · by_cases h2 : x < x0 + 8
    · simp only [show x0 + (64 - 1 - x) - 56 = 7 - (x - x0) by omega]
      simp [h1, h2, show x0 + (63 - x) < 64 by omega, show ¬ x0 + (63 - x) < 56 by omega, show 7 - (x - x0) < 64 by omega]
    · simp [h2, show x0 + (63 - x) < 56 by omega]
  · simp [h1, show ¬ x0 + (63 - x) < 64 by omega]

/-- A collision is a pixel that was on where the sprite has a 1 (R161). -/
theorem collides_iff (d : Display) (x0 y0 : Nat) (sprite : List Byte) :
    d.collides x0 y0 sprite = true ↔
      ∃ y < 32, ∃ x < 64, d.pixel y x = true ∧ (spriteAt sprite x0 y0 y).getMsbD x = true := by
  simp only [Display.collides, List.any_eq_true, List.mem_range, bne_iff_ne, ne_eq]
  refine exists_congr fun y => and_congr_right fun hy => ?_
  rw [show (d.getD y 0) = d[y] by simp [Vector.getD, hy]]
  constructor
  · intro h
    by_contra hn
    apply h
    apply BitVec.eq_of_getMsbD_eq
    intro x hx
    rw [BitVec.getMsbD_and]
    cases h1 : (d[y]).getMsbD x <;> cases h2 : (spriteAt sprite x0 y0 y).getMsbD x
    case true.true => exact absurd ⟨x, hx, by rw [pixel_eq hy, h1], h2⟩ hn
    all_goals simp
  · rintro ⟨x, hx, h1, h2⟩ h
    rw [pixel_eq hy] at h1
    have := congrArg (fun r : BitVec 64 => r.getMsbD x) h
    simp [BitVec.getMsbD_and, h1, h2] at this

/-- Two displays with the same pixels are the same display. -/
theorem display_ext {d e : Display} (h : ∀ y < 32, ∀ x < 64, d.pixel y x = e.pixel y x) : d = e := by
  apply Vector.ext
  intro y hy
  apply BitVec.eq_of_getMsbD_eq
  intro x hx
  have := h y hy x hx
  rwa [pixel_eq hy, pixel_eq hy] at this

end Sys2Proof.Machine
end

