-- ==== Sys2Proof/Laws/Decode.lean ====
section
/-! SUPPORT. Fields of the words the encoder builds, and words as numbers (spec/30_encoding.md R61, R62). -/

namespace Sys2Proof

@[simp] theorem regOf_regBits (r : Reg) : regOf (regBits r) = r := by
  simp [regOf, regBits]

@[simp] theorem regBits_regOf (n : Nibble) : regBits (regOf n) = n := by
  simp [regOf, regBits]

@[simp] theorem val_regOf (n : Nibble) : (regOf n).val = n.toNat := rfl

/-! ### Fields as numbers -/

theorem toNat_opField (w : Word) : (opField w).toNat = w.toNat / 4096 := by
  simp only [opField, BitVec.extractLsb'_toNat, Nat.shiftRight_eq_div_pow]
  have := w.isLt
  omega

theorem toNat_xField (w : Word) : (xField w).toNat = w.toNat / 256 % 16 := by
  simp [xField, BitVec.extractLsb'_toNat, Nat.shiftRight_eq_div_pow]

theorem toNat_yField (w : Word) : (yField w).toNat = w.toNat / 16 % 16 := by
  simp [yField, BitVec.extractLsb'_toNat, Nat.shiftRight_eq_div_pow]

theorem val_xReg (w : Word) : (xReg w).val = w.toNat / 256 % 16 := toNat_xField w

theorem val_yReg (w : Word) : (yReg w).val = w.toNat / 16 % 16 := toNat_yField w

theorem toNat_nField (w : Word) : (nField w).toNat = w.toNat % 16 := by
  simp [nField, BitVec.extractLsb'_toNat]

theorem toNat_nnField (w : Word) : (nnField w).toNat = w.toNat % 256 := by
  simp [nnField, BitVec.extractLsb'_toNat]

theorem toNat_nnnField (w : Word) : (nnnField w).toNat = w.toNat % 4096 := by
  simp [nnnField, BitVec.extractLsb'_toNat]

theorem toNat_hiByte (w : Word) : (hiByte w).toNat = w.toNat / 256 := by
  simp only [hiByte, BitVec.extractLsb'_toNat, Nat.shiftRight_eq_div_pow]
  have := w.isLt
  omega

theorem toNat_loByte (w : Word) : (loByte w).toNat = w.toNat % 256 := by
  simp [loByte, BitVec.extractLsb'_toNat]

/-! ### Words as numbers -/

theorem toNat_wordOfBytes (hi lo : Byte) : (wordOfBytes hi lo).toNat = hi.toNat * 256 + lo.toNat := by
  have h := lo.isLt
  rw [wordOfBytes, BitVec.toNat_append, ← Nat.shiftLeft_add_eq_or_of_lt h, Nat.shiftLeft_eq]

@[simp] theorem wordOfBytes_hiByte_loByte (w : Word) : wordOfBytes (hiByte w) (loByte w) = w := by
  apply BitVec.eq_of_toNat_eq
  rw [toNat_wordOfBytes, toNat_hiByte, toNat_loByte]
  omega

theorem toNat_regBits (r : Reg) : (regBits r).toNat = r.val := by
  simp [regBits]

theorem toNat_wordNNN (op : Nibble) (nnn : Addr12) : (wordNNN op nnn).toNat = op.toNat * 4096 + nnn.toNat := by
  have h := nnn.isLt
  rw [wordNNN, BitVec.toNat_append, ← Nat.shiftLeft_add_eq_or_of_lt h, Nat.shiftLeft_eq]

theorem toNat_wordXNN (op : Nibble) (x : Reg) (nn : Byte) :
    (wordXNN op x nn).toNat = op.toNat * 4096 + x.val * 256 + nn.toNat := by
  have h := nn.isLt
  have hx := (regBits x).isLt
  rw [wordXNN, BitVec.toNat_append, ← Nat.shiftLeft_add_eq_or_of_lt h, Nat.shiftLeft_eq,
    BitVec.toNat_append, ← Nat.shiftLeft_add_eq_or_of_lt hx, Nat.shiftLeft_eq, toNat_regBits]
  omega

theorem toNat_wordXYN (op : Nibble) (x y : Reg) (n : Nibble) :
    (wordXYN op x y n).toNat = op.toNat * 4096 + x.val * 256 + y.val * 16 + n.toNat := by
  have h := n.isLt
  have hx := (regBits x).isLt
  have hy := (regBits y).isLt
  rw [wordXYN, BitVec.toNat_append, ← Nat.shiftLeft_add_eq_or_of_lt h, Nat.shiftLeft_eq,
    BitVec.toNat_append, ← Nat.shiftLeft_add_eq_or_of_lt hy, Nat.shiftLeft_eq,
    BitVec.toNat_append, ← Nat.shiftLeft_add_eq_or_of_lt hx, Nat.shiftLeft_eq, toNat_regBits, toNat_regBits]
  omega

/-! ### Fields of the words the encoder builds -/

@[simp] theorem opField_wordNNN (op : Nibble) (nnn : Addr12) : opField (wordNNN op nnn) = op := by
  apply BitVec.eq_of_toNat_eq
  rw [toNat_opField, toNat_wordNNN]
  omega

@[simp] theorem nnnField_wordNNN (op : Nibble) (nnn : Addr12) : nnnField (wordNNN op nnn) = nnn := by
  apply BitVec.eq_of_toNat_eq
  rw [toNat_nnnField, toNat_wordNNN]
  omega

@[simp] theorem opField_wordXNN (op : Nibble) (x : Reg) (nn : Byte) : opField (wordXNN op x nn) = op := by
  apply BitVec.eq_of_toNat_eq
  rw [toNat_opField, toNat_wordXNN]
  omega

@[simp] theorem xReg_wordXNN (op : Nibble) (x : Reg) (nn : Byte) : xReg (wordXNN op x nn) = x := by
  apply Fin.ext
  rw [val_xReg, toNat_wordXNN]
  omega

@[simp] theorem nnField_wordXNN (op : Nibble) (x : Reg) (nn : Byte) : nnField (wordXNN op x nn) = nn := by
  apply BitVec.eq_of_toNat_eq
  rw [toNat_nnField, toNat_wordXNN]
  omega

@[simp] theorem opField_wordXYN (op : Nibble) (x y : Reg) (n : Nibble) : opField (wordXYN op x y n) = op := by
  apply BitVec.eq_of_toNat_eq
  rw [toNat_opField, toNat_wordXYN]
  omega

@[simp] theorem xReg_wordXYN (op : Nibble) (x y : Reg) (n : Nibble) : xReg (wordXYN op x y n) = x := by
  apply Fin.ext
  rw [val_xReg, toNat_wordXYN]
  omega

@[simp] theorem yReg_wordXYN (op : Nibble) (x y : Reg) (n : Nibble) : yReg (wordXYN op x y n) = y := by
  apply Fin.ext
  rw [val_yReg, toNat_wordXYN]
  omega

@[simp] theorem nField_wordXYN (op : Nibble) (x y : Reg) (n : Nibble) : nField (wordXYN op x y n) = n := by
  apply BitVec.eq_of_toNat_eq
  rw [toNat_nField, toNat_wordXYN]
  omega

/-! ### Every word is one of the encoder's three shapes -/

theorem wordNNN_fields (w : Word) : wordNNN (opField w) (nnnField w) = w := by
  apply BitVec.eq_of_toNat_eq
  rw [toNat_wordNNN, toNat_opField, toNat_nnnField]
  omega

theorem wordXNN_fields (w : Word) : wordXNN (opField w) (xReg w) (nnField w) = w := by
  apply BitVec.eq_of_toNat_eq
  rw [toNat_wordXNN, toNat_opField, val_xReg, toNat_nnField]
  omega

theorem wordXYN_fields (w : Word) : wordXYN (opField w) (xReg w) (yReg w) (nField w) = w := by
  apply BitVec.eq_of_toNat_eq
  rw [toNat_wordXYN, toNat_opField, val_xReg, val_yReg, toNat_nField]
  omega

end Sys2Proof
end

