-- ==== Sys2Proof/Laws/Memory.lean ====
section
/-! SUPPORT. Laws of Memory: reading after writing, and the canonical form (spec/20_memory.md R45 to R49). -/

namespace Sys2Proof.Machine.Cells

variable {base : Nat → Byte}

@[simp] theorem read_nil (a : Nat) : read base [] a = base a := rfl

theorem risingFrom_mono {low high : Nat} {m : Cells} (h : low ≤ high) (hm : risingFrom high m = true) :
    risingFrom low m = true := by
  cases m with
  | nil => rfl
  | cons c rest =>
    simp only [risingFrom, Bool.and_eq_true, decide_eq_true_eq] at hm ⊢
    exact ⟨by omega, hm.2⟩

/-- Below the first address listed, the base is read. -/
theorem read_below {low a : Nat} {m : Cells} (hm : risingFrom low m = true) (ha : a < low) :
    read base m a = base a := by
  induction m generalizing low with
  | nil => rfl
  | cons c rest ih =>
    obtain ⟨k, b⟩ := c
    simp only [risingFrom, Bool.and_eq_true, decide_eq_true_eq] at hm
    rw [read, if_neg (by omega)]
    exact ih hm.2 (by omega)

theorem risingFrom_cons {low a : Nat} {b : Byte} {rest : Cells} (ha : low ≤ a) (hr : risingFrom (a + 1) rest = true) :
    risingFrom low (cons base a b rest) = true := by
  rw [cons]
  split
  · exact risingFrom_mono (by omega) hr
  · simp [risingFrom, ha, hr]

theorem risingFrom_write {low a : Nat} {m : Cells} (b : Byte) (ha : low ≤ a) (hm : risingFrom low m = true) :
    risingFrom low (write base m a b) = true := by
  induction m generalizing low with
  | nil => exact risingFrom_cons ha rfl
  | cons c rest ih =>
    obtain ⟨k, d⟩ := c
    simp only [risingFrom, Bool.and_eq_true, decide_eq_true_eq] at hm
    rw [write]
    split
    · exact risingFrom_cons ha (by simp [risingFrom, hm.2]; omega)
    · split
      · exact risingFrom_cons ha (by simpa [‹a = k›] using hm.2)
      · simp [risingFrom, hm.1, ih (low := k + 1) (by omega) hm.2]

theorem read_cons {a : Nat} {b : Byte} {rest : Cells} (hr : risingFrom (a + 1) rest = true) (a' : Nat) :
    read base (cons base a b rest) a' = if a' = a then b else read base rest a' := by
  rw [cons]
  split
  · split
    · subst_vars
      exact read_below hr (by omega)
    · rfl
  · rw [read]
    simp only [eq_comm]

/-- Reading after one byte is stored: the byte stored at that address, the old byte elsewhere. -/
theorem read_write_of_rising {low a : Nat} {m : Cells} (b : Byte) (hm : risingFrom low m = true) (a' : Nat) :
    read base (write base m a b) a' = if a' = a then b else read base m a' := by
  induction m generalizing low with
  | nil => exact read_cons rfl a'
  | cons c rest ih =>
    obtain ⟨k, d⟩ := c
    simp only [risingFrom, Bool.and_eq_true, decide_eq_true_eq] at hm
    rw [write]
    split
    · exact read_cons (by simp [risingFrom, hm.2]; omega) a'
    · split
      · subst_vars
        rw [read_cons hm.2, read]
        split
        · rfl
        · rw [if_neg (by omega)]
      · rw [read, ih hm.2, read]
        split
        · rw [if_neg (by omega)]
        · rfl

theorem mem_cons_cases {a : Nat} {b : Byte} {rest : Cells} {c : Host.Cell} (hc : c ∈ cons base a b rest) :
    (c = (a, b) ∧ b ≠ base a) ∨ c ∈ rest := by
  rw [cons] at hc
  split at hc
  · exact .inr hc
  · obtain hc | hc := List.mem_cons.mp hc
    · exact .inl ⟨hc, ‹_›⟩
    · exact .inr hc

theorem mem_write_cases {m : Cells} {a : Nat} {b : Byte} {c : Host.Cell} (hc : c ∈ write base m a b) :
    (c = (a, b) ∧ b ≠ base a) ∨ c ∈ m := by
  induction m with
  | nil => exact mem_cons_cases hc
  | cons d rest ih =>
    obtain ⟨k, e⟩ := d
    rw [write] at hc
    split at hc
    · exact mem_cons_cases hc
    · split at hc
      · exact (mem_cons_cases hc).imp_right (List.mem_cons_of_mem _)
      · obtain hc | hc := List.mem_cons.mp hc
        · exact .inr (hc ▸ List.mem_cons_self)
        · exact (ih hc).imp_right (List.mem_cons_of_mem _)

end Sys2Proof.Machine.Cells

namespace Sys2Proof.Machine

/-! ### FONT and the reset contents -/

theorem resetByte_font (font : Font) {k : Nat} (hk : k < 80) : resetByte font (0x050 + k) = font[k] := by
  rw [resetByte, if_pos (by simp; omega)]
  simp [Vector.getD, hk]

theorem resetByte_of_outside (font : Font) {a : Nat} (ha : a < 0x050 ∨ 0x09F < a) : resetByte font a = 0 := by
  rw [resetByte, if_neg (by simp; omega)]

namespace Memory

@[simp] theorem blank_font (font : Font) : (blank font).font = font := rfl

@[simp] theorem read_blank (font : Font) (a : Nat) : (blank font).read a = resetByte font a := rfl

@[simp] theorem wf_blank (font : Font) : wf (blank font) = true := rfl

/-- Storing changes no FONT. -/
@[simp] theorem write_font (m : Memory) (a : Nat) (b : Byte) : (m.write a b).font = m.font := rfl

@[simp] theorem writeList_font (m : Memory) (a : Nat) (bytes : List Byte) : (m.writeList a bytes).font = m.font := by
  induction bytes generalizing m a with
  | nil => rfl
  | cons b rest ih => exact ih (m.write a b) (a + 1)

/-- A memory of the same machine is told by its cells. -/
theorem with_cells {m n : Memory} (h : n.font = m.font) : { m with cells := n.cells } = n := by
  cases m
  cases n
  cases h
  rfl

theorem wf_iff (m : Memory) :
    wf m = true ↔
      Cells.risingFrom 0 m.cells = true ∧ ∀ c ∈ m.cells, c.1 < Config.memSize ∧ c.2 ≠ resetByte m.font c.1 := by
  simp [wf, List.all_eq_true]

/-- Storing a byte inside Memory keeps the canonical form. -/
theorem wf_write {m : Memory} {a : Nat} (b : Byte) (hm : wf m = true) (ha : a < Config.memSize) :
    wf (write m a b) = true := by
  rw [wf_iff] at hm ⊢
  refine ⟨Cells.risingFrom_write b (Nat.zero_le a) hm.1, fun c hc => ?_⟩
  obtain ⟨rfl, hb⟩ | hc := Cells.mem_write_cases hc
  · exact ⟨ha, hb⟩
  · exact hm.2 c hc

/-- Reading after one byte is stored: the byte stored at that address, the old byte elsewhere. -/
theorem read_write_of_rising {m : Memory} (hm : Cells.risingFrom 0 m.cells = true) (a : Nat) (b : Byte) (a' : Nat) :
    read (write m a b) a' = if a' = a then b else read m a' :=
  Cells.read_write_of_rising b hm a'

theorem read_write {m : Memory} (hm : wf m = true) (a : Nat) (b : Byte) (a' : Nat) :
    read (write m a b) a' = if a' = a then b else read m a' :=
  read_write_of_rising ((wf_iff m).mp hm).1 a b a'

/-- Storing bytes inside Memory keeps the canonical form. -/
theorem wf_writeList {m : Memory} {a : Nat} {bytes : List Byte} (hm : wf m = true)
    (ha : a + bytes.length ≤ Config.memSize) : wf (writeList m a bytes) = true := by
  induction bytes generalizing m a with
  | nil => exact hm
  | cons b rest ih =>
    simp only [List.length_cons] at ha
    exact ih (wf_write b hm (by omega)) (by omega)

theorem risingFrom_writeList {m : Memory} {a : Nat} {bytes : List Byte} (hm : Cells.risingFrom 0 m.cells = true) :
    Cells.risingFrom 0 (writeList m a bytes).cells = true := by
  induction bytes generalizing m a with
  | nil => exact hm
  | cons b rest ih => exact ih (m := write m a b) (Cells.risingFrom_write b (Nat.zero_le a) hm)

/-- Reading after bytes are stored from `a` on: the byte stored there, the old byte outside the range. -/
theorem read_writeList_of_rising {m : Memory} {a : Nat} {bytes : List Byte} (hm : Cells.risingFrom 0 m.cells = true)
    (a' : Nat) :
    read (writeList m a bytes) a' =
      if a ≤ a' ∧ a' < a + bytes.length then bytes.getD (a' - a) 0 else read m a' := by
  induction bytes generalizing m a with
  | nil => rw [writeList, if_neg (by simp)]
  | cons b rest ih =>
    rw [writeList, ih (m := write m a b) (Cells.risingFrom_write b (Nat.zero_le a) hm), read_write_of_rising hm]
    simp only [List.length_cons]
    by_cases h0 : a' = a
    · subst h0
      rw [if_neg (by omega), if_pos rfl, if_pos (by omega), Nat.sub_self]
      rfl
    · by_cases h1 : a + 1 ≤ a' ∧ a' < a + 1 + rest.length
      · rw [if_pos h1, if_pos (by omega), show a' - a = (a' - (a + 1)) + 1 by omega]
        simp
      · rw [if_neg h1, if_neg h0, if_neg (by omega)]

theorem read_writeList {m : Memory} {a : Nat} {bytes : List Byte} (hm : wf m = true) (a' : Nat) :
    read (writeList m a bytes) a' =
      if a ≤ a' ∧ a' < a + bytes.length then bytes.getD (a' - a) 0 else read m a' :=
  read_writeList_of_rising ((wf_iff m).mp hm).1 a'

theorem inBounds_iff (a n : Nat) : inBounds a n = true ↔ n = 0 ∨ a + n ≤ 0x1000 := by
  simp [inBounds]

end Memory

end Sys2Proof.Machine
end

