-- ==== Sys2Proof/Laws/State.lean ====
section
/-! SUPPORT. What each named operation over the state does to each field: one lemma per field and operation, so that no
proof unfolds a record update. -/

namespace Sys2Proof.Machine.State

/-! ### setReg -/

@[simp] theorem setReg_v (s : State) (r : Reg) (b : Byte) : (s.setReg r b).v = s.v.set r.val b := rfl
@[simp] theorem setReg_pc (s : State) (r : Reg) (b : Byte) : (s.setReg r b).pc = s.pc := rfl
@[simp] theorem setReg_i (s : State) (r : Reg) (b : Byte) : (s.setReg r b).i = s.i := rfl
@[simp] theorem setReg_stack (s : State) (r : Reg) (b : Byte) : (s.setReg r b).stack = s.stack := rfl
@[simp] theorem setReg_sp (s : State) (r : Reg) (b : Byte) : (s.setReg r b).sp = s.sp := rfl
@[simp] theorem setReg_dt (s : State) (r : Reg) (b : Byte) : (s.setReg r b).dt = s.dt := rfl
@[simp] theorem setReg_st (s : State) (r : Reg) (b : Byte) : (s.setReg r b).st = s.st := rfl
@[simp] theorem setReg_disp (s : State) (r : Reg) (b : Byte) : (s.setReg r b).disp = s.disp := rfl
@[simp] theorem setReg_mem (s : State) (r : Reg) (b : Byte) : (s.setReg r b).mem = s.mem := rfl
@[simp] theorem setReg_status (s : State) (r : Reg) (b : Byte) : (s.setReg r b).status = s.status := rfl
@[simp] theorem setReg_shutdown (s : State) (r : Reg) (b : Byte) : (s.setReg r b).shutdown = s.shutdown := rfl
@[simp] theorem setReg_started (s : State) (r : Reg) (b : Byte) : (s.setReg r b).started = s.started := rfl
@[simp] theorem setReg_output (s : State) (r : Reg) (b : Byte) : (s.setReg r b).output = s.output := rfl
@[simp] theorem setReg_agenda (s : State) (r : Reg) (b : Byte) : (s.setReg r b).agenda = s.agenda := rfl
@[simp] theorem setReg_draws (s : State) (r : Reg) (b : Byte) : (s.setReg r b).draws = s.draws := rfl

/-! ### setPc -/

@[simp] theorem setPc_v (s : State) (w : Word) : (s.setPc w).v = s.v := rfl
@[simp] theorem setPc_pc (s : State) (w : Word) : (s.setPc w).pc = w := rfl
@[simp] theorem setPc_i (s : State) (w : Word) : (s.setPc w).i = s.i := rfl
@[simp] theorem setPc_stack (s : State) (w : Word) : (s.setPc w).stack = s.stack := rfl
@[simp] theorem setPc_sp (s : State) (w : Word) : (s.setPc w).sp = s.sp := rfl
@[simp] theorem setPc_dt (s : State) (w : Word) : (s.setPc w).dt = s.dt := rfl
@[simp] theorem setPc_st (s : State) (w : Word) : (s.setPc w).st = s.st := rfl
@[simp] theorem setPc_disp (s : State) (w : Word) : (s.setPc w).disp = s.disp := rfl
@[simp] theorem setPc_mem (s : State) (w : Word) : (s.setPc w).mem = s.mem := rfl
@[simp] theorem setPc_status (s : State) (w : Word) : (s.setPc w).status = s.status := rfl
@[simp] theorem setPc_shutdown (s : State) (w : Word) : (s.setPc w).shutdown = s.shutdown := rfl
@[simp] theorem setPc_started (s : State) (w : Word) : (s.setPc w).started = s.started := rfl
@[simp] theorem setPc_output (s : State) (w : Word) : (s.setPc w).output = s.output := rfl
@[simp] theorem setPc_agenda (s : State) (w : Word) : (s.setPc w).agenda = s.agenda := rfl
@[simp] theorem setPc_draws (s : State) (w : Word) : (s.setPc w).draws = s.draws := rfl

/-! ### skipIf -/

@[simp] theorem skipIf_v (s : State) (c : Bool) : (s.skipIf c).v = s.v := rfl
@[simp] theorem skipIf_pc (s : State) (c : Bool) : (s.skipIf c).pc = if c then s.pc + 2 else s.pc := rfl
@[simp] theorem skipIf_i (s : State) (c : Bool) : (s.skipIf c).i = s.i := rfl
@[simp] theorem skipIf_stack (s : State) (c : Bool) : (s.skipIf c).stack = s.stack := rfl
@[simp] theorem skipIf_sp (s : State) (c : Bool) : (s.skipIf c).sp = s.sp := rfl
@[simp] theorem skipIf_dt (s : State) (c : Bool) : (s.skipIf c).dt = s.dt := rfl
@[simp] theorem skipIf_st (s : State) (c : Bool) : (s.skipIf c).st = s.st := rfl
@[simp] theorem skipIf_disp (s : State) (c : Bool) : (s.skipIf c).disp = s.disp := rfl
@[simp] theorem skipIf_mem (s : State) (c : Bool) : (s.skipIf c).mem = s.mem := rfl
@[simp] theorem skipIf_status (s : State) (c : Bool) : (s.skipIf c).status = s.status := rfl
@[simp] theorem skipIf_shutdown (s : State) (c : Bool) : (s.skipIf c).shutdown = s.shutdown := rfl
@[simp] theorem skipIf_started (s : State) (c : Bool) : (s.skipIf c).started = s.started := rfl
@[simp] theorem skipIf_output (s : State) (c : Bool) : (s.skipIf c).output = s.output := rfl
@[simp] theorem skipIf_agenda (s : State) (c : Bool) : (s.skipIf c).agenda = s.agenda := rfl
@[simp] theorem skipIf_draws (s : State) (c : Bool) : (s.skipIf c).draws = s.draws := rfl

/-! ### setI -/

@[simp] theorem setI_v (s : State) (w : Word) : (s.setI w).v = s.v := rfl
@[simp] theorem setI_pc (s : State) (w : Word) : (s.setI w).pc = s.pc := rfl
@[simp] theorem setI_i (s : State) (w : Word) : (s.setI w).i = w := rfl
@[simp] theorem setI_stack (s : State) (w : Word) : (s.setI w).stack = s.stack := rfl
@[simp] theorem setI_sp (s : State) (w : Word) : (s.setI w).sp = s.sp := rfl
@[simp] theorem setI_dt (s : State) (w : Word) : (s.setI w).dt = s.dt := rfl
@[simp] theorem setI_st (s : State) (w : Word) : (s.setI w).st = s.st := rfl
@[simp] theorem setI_disp (s : State) (w : Word) : (s.setI w).disp = s.disp := rfl
@[simp] theorem setI_mem (s : State) (w : Word) : (s.setI w).mem = s.mem := rfl
@[simp] theorem setI_status (s : State) (w : Word) : (s.setI w).status = s.status := rfl
@[simp] theorem setI_shutdown (s : State) (w : Word) : (s.setI w).shutdown = s.shutdown := rfl
@[simp] theorem setI_started (s : State) (w : Word) : (s.setI w).started = s.started := rfl
@[simp] theorem setI_output (s : State) (w : Word) : (s.setI w).output = s.output := rfl
@[simp] theorem setI_agenda (s : State) (w : Word) : (s.setI w).agenda = s.agenda := rfl
@[simp] theorem setI_draws (s : State) (w : Word) : (s.setI w).draws = s.draws := rfl

/-! ### setDt -/

@[simp] theorem setDt_v (s : State) (b : Byte) : (s.setDt b).v = s.v := rfl
@[simp] theorem setDt_pc (s : State) (b : Byte) : (s.setDt b).pc = s.pc := rfl
@[simp] theorem setDt_i (s : State) (b : Byte) : (s.setDt b).i = s.i := rfl
@[simp] theorem setDt_stack (s : State) (b : Byte) : (s.setDt b).stack = s.stack := rfl
@[simp] theorem setDt_sp (s : State) (b : Byte) : (s.setDt b).sp = s.sp := rfl
@[simp] theorem setDt_dt (s : State) (b : Byte) : (s.setDt b).dt = b := rfl
@[simp] theorem setDt_st (s : State) (b : Byte) : (s.setDt b).st = s.st := rfl
@[simp] theorem setDt_disp (s : State) (b : Byte) : (s.setDt b).disp = s.disp := rfl
@[simp] theorem setDt_mem (s : State) (b : Byte) : (s.setDt b).mem = s.mem := rfl
@[simp] theorem setDt_status (s : State) (b : Byte) : (s.setDt b).status = s.status := rfl
@[simp] theorem setDt_shutdown (s : State) (b : Byte) : (s.setDt b).shutdown = s.shutdown := rfl
@[simp] theorem setDt_started (s : State) (b : Byte) : (s.setDt b).started = s.started := rfl
@[simp] theorem setDt_output (s : State) (b : Byte) : (s.setDt b).output = s.output := rfl
@[simp] theorem setDt_agenda (s : State) (b : Byte) : (s.setDt b).agenda = s.agenda := rfl
@[simp] theorem setDt_draws (s : State) (b : Byte) : (s.setDt b).draws = s.draws := rfl

/-! ### setSt -/

@[simp] theorem setSt_v (s : State) (b : Byte) : (s.setSt b).v = s.v := rfl
@[simp] theorem setSt_pc (s : State) (b : Byte) : (s.setSt b).pc = s.pc := rfl
@[simp] theorem setSt_i (s : State) (b : Byte) : (s.setSt b).i = s.i := rfl
@[simp] theorem setSt_stack (s : State) (b : Byte) : (s.setSt b).stack = s.stack := rfl
@[simp] theorem setSt_sp (s : State) (b : Byte) : (s.setSt b).sp = s.sp := rfl
@[simp] theorem setSt_dt (s : State) (b : Byte) : (s.setSt b).dt = s.dt := rfl
@[simp] theorem setSt_st (s : State) (b : Byte) : (s.setSt b).st = b := rfl
@[simp] theorem setSt_disp (s : State) (b : Byte) : (s.setSt b).disp = s.disp := rfl
@[simp] theorem setSt_mem (s : State) (b : Byte) : (s.setSt b).mem = s.mem := rfl
@[simp] theorem setSt_status (s : State) (b : Byte) : (s.setSt b).status = s.status := rfl
@[simp] theorem setSt_shutdown (s : State) (b : Byte) : (s.setSt b).shutdown = s.shutdown := rfl
@[simp] theorem setSt_started (s : State) (b : Byte) : (s.setSt b).started = s.started := rfl
@[simp] theorem setSt_output (s : State) (b : Byte) : (s.setSt b).output = s.output := rfl
@[simp] theorem setSt_agenda (s : State) (b : Byte) : (s.setSt b).agenda = s.agenda := rfl
@[simp] theorem setSt_draws (s : State) (b : Byte) : (s.setSt b).draws = s.draws := rfl

/-! ### setDisp -/

@[simp] theorem setDisp_v (s : State) (d : Display) : (s.setDisp d).v = s.v := rfl
@[simp] theorem setDisp_pc (s : State) (d : Display) : (s.setDisp d).pc = s.pc := rfl
@[simp] theorem setDisp_i (s : State) (d : Display) : (s.setDisp d).i = s.i := rfl
@[simp] theorem setDisp_stack (s : State) (d : Display) : (s.setDisp d).stack = s.stack := rfl
@[simp] theorem setDisp_sp (s : State) (d : Display) : (s.setDisp d).sp = s.sp := rfl
@[simp] theorem setDisp_dt (s : State) (d : Display) : (s.setDisp d).dt = s.dt := rfl
@[simp] theorem setDisp_st (s : State) (d : Display) : (s.setDisp d).st = s.st := rfl
@[simp] theorem setDisp_disp (s : State) (d : Display) : (s.setDisp d).disp = d := rfl
@[simp] theorem setDisp_mem (s : State) (d : Display) : (s.setDisp d).mem = s.mem := rfl
@[simp] theorem setDisp_status (s : State) (d : Display) : (s.setDisp d).status = s.status := rfl
@[simp] theorem setDisp_shutdown (s : State) (d : Display) : (s.setDisp d).shutdown = s.shutdown := rfl
@[simp] theorem setDisp_started (s : State) (d : Display) : (s.setDisp d).started = s.started := rfl
@[simp] theorem setDisp_output (s : State) (d : Display) : (s.setDisp d).output = s.output := rfl
@[simp] theorem setDisp_agenda (s : State) (d : Display) : (s.setDisp d).agenda = s.agenda := rfl
@[simp] theorem setDisp_draws (s : State) (d : Display) : (s.setDisp d).draws = s.draws := rfl

/-! ### setStatus -/

@[simp] theorem setStatus_v (s : State) (x : Status) : (s.setStatus x).v = s.v := rfl
@[simp] theorem setStatus_pc (s : State) (x : Status) : (s.setStatus x).pc = s.pc := rfl
@[simp] theorem setStatus_i (s : State) (x : Status) : (s.setStatus x).i = s.i := rfl
@[simp] theorem setStatus_stack (s : State) (x : Status) : (s.setStatus x).stack = s.stack := rfl
@[simp] theorem setStatus_sp (s : State) (x : Status) : (s.setStatus x).sp = s.sp := rfl
@[simp] theorem setStatus_dt (s : State) (x : Status) : (s.setStatus x).dt = s.dt := rfl
@[simp] theorem setStatus_st (s : State) (x : Status) : (s.setStatus x).st = s.st := rfl
@[simp] theorem setStatus_disp (s : State) (x : Status) : (s.setStatus x).disp = s.disp := rfl
@[simp] theorem setStatus_mem (s : State) (x : Status) : (s.setStatus x).mem = s.mem := rfl
@[simp] theorem setStatus_status (s : State) (x : Status) : (s.setStatus x).status = x := rfl
@[simp] theorem setStatus_shutdown (s : State) (x : Status) : (s.setStatus x).shutdown = s.shutdown := rfl
@[simp] theorem setStatus_started (s : State) (x : Status) : (s.setStatus x).started = s.started := rfl
@[simp] theorem setStatus_output (s : State) (x : Status) : (s.setStatus x).output = s.output := rfl
@[simp] theorem setStatus_agenda (s : State) (x : Status) : (s.setStatus x).agenda = s.agenda := rfl
@[simp] theorem setStatus_draws (s : State) (x : Status) : (s.setStatus x).draws = s.draws := rfl

/-! ### writeBytes -/

@[simp] theorem writeBytes_v (s : State) (a : Nat) (l : List Byte) : (s.writeBytes a l).v = s.v := rfl
@[simp] theorem writeBytes_pc (s : State) (a : Nat) (l : List Byte) : (s.writeBytes a l).pc = s.pc := rfl
@[simp] theorem writeBytes_i (s : State) (a : Nat) (l : List Byte) : (s.writeBytes a l).i = s.i := rfl
@[simp] theorem writeBytes_stack (s : State) (a : Nat) (l : List Byte) : (s.writeBytes a l).stack = s.stack := rfl
@[simp] theorem writeBytes_sp (s : State) (a : Nat) (l : List Byte) : (s.writeBytes a l).sp = s.sp := rfl
@[simp] theorem writeBytes_dt (s : State) (a : Nat) (l : List Byte) : (s.writeBytes a l).dt = s.dt := rfl
@[simp] theorem writeBytes_st (s : State) (a : Nat) (l : List Byte) : (s.writeBytes a l).st = s.st := rfl
@[simp] theorem writeBytes_disp (s : State) (a : Nat) (l : List Byte) : (s.writeBytes a l).disp = s.disp := rfl
@[simp] theorem writeBytes_mem (s : State) (a : Nat) (l : List Byte) : (s.writeBytes a l).mem = s.mem.writeList a l := rfl
@[simp] theorem writeBytes_status (s : State) (a : Nat) (l : List Byte) : (s.writeBytes a l).status = s.status := rfl
@[simp] theorem writeBytes_shutdown (s : State) (a : Nat) (l : List Byte) : (s.writeBytes a l).shutdown = s.shutdown := rfl
@[simp] theorem writeBytes_started (s : State) (a : Nat) (l : List Byte) : (s.writeBytes a l).started = s.started := rfl
@[simp] theorem writeBytes_output (s : State) (a : Nat) (l : List Byte) : (s.writeBytes a l).output = s.output := rfl
@[simp] theorem writeBytes_agenda (s : State) (a : Nat) (l : List Byte) : (s.writeBytes a l).agenda = s.agenda := rfl
@[simp] theorem writeBytes_draws (s : State) (a : Nat) (l : List Byte) : (s.writeBytes a l).draws = s.draws := rfl

/-! ### loadUpTo -/

@[simp] theorem loadUpTo_pc (s : State) (x : Reg) (a : Nat) : (s.loadUpTo x a).pc = s.pc := rfl
@[simp] theorem loadUpTo_i (s : State) (x : Reg) (a : Nat) : (s.loadUpTo x a).i = s.i := rfl
@[simp] theorem loadUpTo_stack (s : State) (x : Reg) (a : Nat) : (s.loadUpTo x a).stack = s.stack := rfl
@[simp] theorem loadUpTo_sp (s : State) (x : Reg) (a : Nat) : (s.loadUpTo x a).sp = s.sp := rfl
@[simp] theorem loadUpTo_dt (s : State) (x : Reg) (a : Nat) : (s.loadUpTo x a).dt = s.dt := rfl
@[simp] theorem loadUpTo_st (s : State) (x : Reg) (a : Nat) : (s.loadUpTo x a).st = s.st := rfl
@[simp] theorem loadUpTo_disp (s : State) (x : Reg) (a : Nat) : (s.loadUpTo x a).disp = s.disp := rfl
@[simp] theorem loadUpTo_mem (s : State) (x : Reg) (a : Nat) : (s.loadUpTo x a).mem = s.mem := rfl
@[simp] theorem loadUpTo_status (s : State) (x : Reg) (a : Nat) : (s.loadUpTo x a).status = s.status := rfl
@[simp] theorem loadUpTo_shutdown (s : State) (x : Reg) (a : Nat) : (s.loadUpTo x a).shutdown = s.shutdown := rfl
@[simp] theorem loadUpTo_started (s : State) (x : Reg) (a : Nat) : (s.loadUpTo x a).started = s.started := rfl
@[simp] theorem loadUpTo_output (s : State) (x : Reg) (a : Nat) : (s.loadUpTo x a).output = s.output := rfl
@[simp] theorem loadUpTo_agenda (s : State) (x : Reg) (a : Nat) : (s.loadUpTo x a).agenda = s.agenda := rfl
@[simp] theorem loadUpTo_draws (s : State) (x : Reg) (a : Nat) : (s.loadUpTo x a).draws = s.draws := rfl

/-! ### advanceI -/

@[simp] theorem advanceI_v (s : State) (n : Nat) : (s.advanceI n).v = s.v := rfl
@[simp] theorem advanceI_pc (s : State) (n : Nat) : (s.advanceI n).pc = s.pc := rfl
@[simp] theorem advanceI_i (s : State) (n : Nat) : (s.advanceI n).i = BitVec.ofNat 16 (s.i.toNat + n) := rfl
@[simp] theorem advanceI_stack (s : State) (n : Nat) : (s.advanceI n).stack = s.stack := rfl
@[simp] theorem advanceI_sp (s : State) (n : Nat) : (s.advanceI n).sp = s.sp := rfl
@[simp] theorem advanceI_dt (s : State) (n : Nat) : (s.advanceI n).dt = s.dt := rfl
@[simp] theorem advanceI_st (s : State) (n : Nat) : (s.advanceI n).st = s.st := rfl
@[simp] theorem advanceI_disp (s : State) (n : Nat) : (s.advanceI n).disp = s.disp := rfl
@[simp] theorem advanceI_mem (s : State) (n : Nat) : (s.advanceI n).mem = s.mem := rfl
@[simp] theorem advanceI_status (s : State) (n : Nat) : (s.advanceI n).status = s.status := rfl
@[simp] theorem advanceI_shutdown (s : State) (n : Nat) : (s.advanceI n).shutdown = s.shutdown := rfl
@[simp] theorem advanceI_started (s : State) (n : Nat) : (s.advanceI n).started = s.started := rfl
@[simp] theorem advanceI_output (s : State) (n : Nat) : (s.advanceI n).output = s.output := rfl
@[simp] theorem advanceI_agenda (s : State) (n : Nat) : (s.advanceI n).agenda = s.agenda := rfl
@[simp] theorem advanceI_draws (s : State) (n : Nat) : (s.advanceI n).draws = s.draws := rfl

/-! ### raiseAt -/

@[simp] theorem raiseAt_v (s : State) (a : Word) (c : Cause) (w : Word) : (s.raiseAt a c w).v = s.v := rfl
@[simp] theorem raiseAt_pc (s : State) (a : Word) (c : Cause) (w : Word) : (s.raiseAt a c w).pc = a := rfl
@[simp] theorem raiseAt_i (s : State) (a : Word) (c : Cause) (w : Word) : (s.raiseAt a c w).i = s.i := rfl
@[simp] theorem raiseAt_stack (s : State) (a : Word) (c : Cause) (w : Word) : (s.raiseAt a c w).stack = s.stack := rfl
@[simp] theorem raiseAt_sp (s : State) (a : Word) (c : Cause) (w : Word) : (s.raiseAt a c w).sp = s.sp := rfl
@[simp] theorem raiseAt_dt (s : State) (a : Word) (c : Cause) (w : Word) : (s.raiseAt a c w).dt = s.dt := rfl
@[simp] theorem raiseAt_st (s : State) (a : Word) (c : Cause) (w : Word) : (s.raiseAt a c w).st = s.st := rfl
@[simp] theorem raiseAt_disp (s : State) (a : Word) (c : Cause) (w : Word) : (s.raiseAt a c w).disp = s.disp := rfl
@[simp] theorem raiseAt_mem (s : State) (a : Word) (c : Cause) (w : Word) : (s.raiseAt a c w).mem = s.mem := rfl
@[simp] theorem raiseAt_status (s : State) (a : Word) (c : Cause) (w : Word) : (s.raiseAt a c w).status = .faulted c a w := rfl
@[simp] theorem raiseAt_shutdown (s : State) (a : Word) (c : Cause) (w : Word) : (s.raiseAt a c w).shutdown = true := rfl
@[simp] theorem raiseAt_started (s : State) (a : Word) (c : Cause) (w : Word) : (s.raiseAt a c w).started = s.started := rfl
@[simp] theorem raiseAt_output (s : State) (a : Word) (c : Cause) (w : Word) : (s.raiseAt a c w).output = s.output := rfl
@[simp] theorem raiseAt_agenda (s : State) (a : Word) (c : Cause) (w : Word) : (s.raiseAt a c w).agenda = s.agenda := rfl
@[simp] theorem raiseAt_draws (s : State) (a : Word) (c : Cause) (w : Word) : (s.raiseAt a c w).draws = s.draws := rfl

/-! ### raise -/

@[simp] theorem raise_v (s : State) (c : Cause) (w : Word) : (s.raise c w).v = s.v := rfl
@[simp] theorem raise_pc (s : State) (c : Cause) (w : Word) : (s.raise c w).pc = s.pc - 2 := rfl
@[simp] theorem raise_i (s : State) (c : Cause) (w : Word) : (s.raise c w).i = s.i := rfl
@[simp] theorem raise_stack (s : State) (c : Cause) (w : Word) : (s.raise c w).stack = s.stack := rfl
@[simp] theorem raise_sp (s : State) (c : Cause) (w : Word) : (s.raise c w).sp = s.sp := rfl
@[simp] theorem raise_dt (s : State) (c : Cause) (w : Word) : (s.raise c w).dt = s.dt := rfl
@[simp] theorem raise_st (s : State) (c : Cause) (w : Word) : (s.raise c w).st = s.st := rfl
@[simp] theorem raise_disp (s : State) (c : Cause) (w : Word) : (s.raise c w).disp = s.disp := rfl
@[simp] theorem raise_mem (s : State) (c : Cause) (w : Word) : (s.raise c w).mem = s.mem := rfl
@[simp] theorem raise_status (s : State) (c : Cause) (w : Word) : (s.raise c w).status = .faulted c (s.pc - 2) w := rfl
@[simp] theorem raise_shutdown (s : State) (c : Cause) (w : Word) : (s.raise c w).shutdown = true := rfl
@[simp] theorem raise_started (s : State) (c : Cause) (w : Word) : (s.raise c w).started = s.started := rfl
@[simp] theorem raise_output (s : State) (c : Cause) (w : Word) : (s.raise c w).output = s.output := rfl
@[simp] theorem raise_agenda (s : State) (c : Cause) (w : Word) : (s.raise c w).agenda = s.agenda := rfl
@[simp] theorem raise_draws (s : State) (c : Cause) (w : Word) : (s.raise c w).draws = s.draws := rfl

/-! ### emit -/

@[simp] theorem emit_v (s : State) (e : Output) : (s.emit e).v = s.v := rfl
@[simp] theorem emit_pc (s : State) (e : Output) : (s.emit e).pc = s.pc := rfl
@[simp] theorem emit_i (s : State) (e : Output) : (s.emit e).i = s.i := rfl
@[simp] theorem emit_stack (s : State) (e : Output) : (s.emit e).stack = s.stack := rfl
@[simp] theorem emit_sp (s : State) (e : Output) : (s.emit e).sp = s.sp := rfl
@[simp] theorem emit_dt (s : State) (e : Output) : (s.emit e).dt = s.dt := rfl
@[simp] theorem emit_st (s : State) (e : Output) : (s.emit e).st = s.st := rfl
@[simp] theorem emit_disp (s : State) (e : Output) : (s.emit e).disp = s.disp := rfl
@[simp] theorem emit_mem (s : State) (e : Output) : (s.emit e).mem = s.mem := rfl
@[simp] theorem emit_status (s : State) (e : Output) : (s.emit e).status = s.status := rfl
@[simp] theorem emit_shutdown (s : State) (e : Output) : (s.emit e).shutdown = s.shutdown := rfl
@[simp] theorem emit_started (s : State) (e : Output) : (s.emit e).started = s.started := rfl
@[simp] theorem emit_output (s : State) (e : Output) : (s.emit e).output = s.output ++ [e] := rfl
@[simp] theorem emit_agenda (s : State) (e : Output) : (s.emit e).agenda = s.agenda := rfl
@[simp] theorem emit_draws (s : State) (e : Output) : (s.emit e).draws = s.draws := rfl

/-! ### setAgenda -/

@[simp] theorem setAgenda_v (s : State) (l : List Action) : (s.setAgenda l).v = s.v := rfl
@[simp] theorem setAgenda_pc (s : State) (l : List Action) : (s.setAgenda l).pc = s.pc := rfl
@[simp] theorem setAgenda_i (s : State) (l : List Action) : (s.setAgenda l).i = s.i := rfl
@[simp] theorem setAgenda_stack (s : State) (l : List Action) : (s.setAgenda l).stack = s.stack := rfl
@[simp] theorem setAgenda_sp (s : State) (l : List Action) : (s.setAgenda l).sp = s.sp := rfl
@[simp] theorem setAgenda_dt (s : State) (l : List Action) : (s.setAgenda l).dt = s.dt := rfl
@[simp] theorem setAgenda_st (s : State) (l : List Action) : (s.setAgenda l).st = s.st := rfl
@[simp] theorem setAgenda_disp (s : State) (l : List Action) : (s.setAgenda l).disp = s.disp := rfl
@[simp] theorem setAgenda_mem (s : State) (l : List Action) : (s.setAgenda l).mem = s.mem := rfl
@[simp] theorem setAgenda_status (s : State) (l : List Action) : (s.setAgenda l).status = s.status := rfl
@[simp] theorem setAgenda_shutdown (s : State) (l : List Action) : (s.setAgenda l).shutdown = s.shutdown := rfl
@[simp] theorem setAgenda_started (s : State) (l : List Action) : (s.setAgenda l).started = s.started := rfl
@[simp] theorem setAgenda_output (s : State) (l : List Action) : (s.setAgenda l).output = s.output := rfl
@[simp] theorem setAgenda_agenda (s : State) (l : List Action) : (s.setAgenda l).agenda = l := rfl
@[simp] theorem setAgenda_draws (s : State) (l : List Action) : (s.setAgenda l).draws = s.draws := rfl

/-! ### drawn -/

@[simp] theorem drawn_v (s : State) : (s.drawn).v = s.v := rfl
@[simp] theorem drawn_pc (s : State) : (s.drawn).pc = s.pc := rfl
@[simp] theorem drawn_i (s : State) : (s.drawn).i = s.i := rfl
@[simp] theorem drawn_stack (s : State) : (s.drawn).stack = s.stack := rfl
@[simp] theorem drawn_sp (s : State) : (s.drawn).sp = s.sp := rfl
@[simp] theorem drawn_dt (s : State) : (s.drawn).dt = s.dt := rfl
@[simp] theorem drawn_st (s : State) : (s.drawn).st = s.st := rfl
@[simp] theorem drawn_disp (s : State) : (s.drawn).disp = s.disp := rfl
@[simp] theorem drawn_mem (s : State) : (s.drawn).mem = s.mem := rfl
@[simp] theorem drawn_status (s : State) : (s.drawn).status = s.status := rfl
@[simp] theorem drawn_shutdown (s : State) : (s.drawn).shutdown = s.shutdown := rfl
@[simp] theorem drawn_started (s : State) : (s.drawn).started = s.started := rfl
@[simp] theorem drawn_output (s : State) : (s.drawn).output = s.output := rfl
@[simp] theorem drawn_agenda (s : State) : (s.drawn).agenda = s.agenda := rfl
@[simp] theorem drawn_draws (s : State) : (s.drawn).draws = s.draws + 1 := rfl

/-! ### advance -/

@[simp] theorem advance_v (s : State) : (s.advance).v = s.v := rfl
@[simp] theorem advance_pc (s : State) : (s.advance).pc = s.pc + 2 := rfl
@[simp] theorem advance_i (s : State) : (s.advance).i = s.i := rfl
@[simp] theorem advance_stack (s : State) : (s.advance).stack = s.stack := rfl
@[simp] theorem advance_sp (s : State) : (s.advance).sp = s.sp := rfl
@[simp] theorem advance_dt (s : State) : (s.advance).dt = s.dt := rfl
@[simp] theorem advance_st (s : State) : (s.advance).st = s.st := rfl
@[simp] theorem advance_disp (s : State) : (s.advance).disp = s.disp := rfl
@[simp] theorem advance_mem (s : State) : (s.advance).mem = s.mem := rfl
@[simp] theorem advance_status (s : State) : (s.advance).status = s.status := rfl
@[simp] theorem advance_shutdown (s : State) : (s.advance).shutdown = s.shutdown := rfl
@[simp] theorem advance_started (s : State) : (s.advance).started = s.started := rfl
@[simp] theorem advance_output (s : State) : (s.advance).output = s.output := rfl
@[simp] theorem advance_agenda (s : State) : (s.advance).agenda = s.agenda := rfl
@[simp] theorem advance_draws (s : State) : (s.advance).draws = s.draws := rfl

/-! ### begun -/

@[simp] theorem begun_v (s : State) : (s.begun).v = s.v := rfl
@[simp] theorem begun_pc (s : State) : (s.begun).pc = s.pc := rfl
@[simp] theorem begun_i (s : State) : (s.begun).i = s.i := rfl
@[simp] theorem begun_stack (s : State) : (s.begun).stack = s.stack := rfl
@[simp] theorem begun_sp (s : State) : (s.begun).sp = s.sp := rfl
@[simp] theorem begun_dt (s : State) : (s.begun).dt = s.dt := rfl
@[simp] theorem begun_st (s : State) : (s.begun).st = s.st := rfl
@[simp] theorem begun_disp (s : State) : (s.begun).disp = s.disp := rfl
@[simp] theorem begun_mem (s : State) : (s.begun).mem = s.mem := rfl
@[simp] theorem begun_status (s : State) : (s.begun).status = s.status := rfl
@[simp] theorem begun_shutdown (s : State) : (s.begun).shutdown = s.shutdown := rfl
@[simp] theorem begun_started (s : State) : (s.begun).started = true := rfl
@[simp] theorem begun_output (s : State) : (s.begun).output = s.output := rfl
@[simp] theorem begun_agenda (s : State) : (s.begun).agenda = s.agenda := rfl
@[simp] theorem begun_draws (s : State) : (s.begun).draws = s.draws := rfl

/-! ### halt -/

@[simp] theorem halt_v (s : State) : (s.halt).v = s.v := rfl
@[simp] theorem halt_pc (s : State) : (s.halt).pc = s.pc := rfl
@[simp] theorem halt_i (s : State) : (s.halt).i = s.i := rfl
@[simp] theorem halt_stack (s : State) : (s.halt).stack = s.stack := rfl
@[simp] theorem halt_sp (s : State) : (s.halt).sp = s.sp := rfl
@[simp] theorem halt_dt (s : State) : (s.halt).dt = s.dt := rfl
@[simp] theorem halt_st (s : State) : (s.halt).st = s.st := rfl
@[simp] theorem halt_disp (s : State) : (s.halt).disp = s.disp := rfl
@[simp] theorem halt_mem (s : State) : (s.halt).mem = s.mem := rfl
@[simp] theorem halt_status (s : State) : (s.halt).status = .halted := rfl
@[simp] theorem halt_shutdown (s : State) : (s.halt).shutdown = true := rfl
@[simp] theorem halt_started (s : State) : (s.halt).started = s.started := rfl
@[simp] theorem halt_output (s : State) : (s.halt).output = s.output := rfl
@[simp] theorem halt_agenda (s : State) : (s.halt).agenda = s.agenda := rfl
@[simp] theorem halt_draws (s : State) : (s.halt).draws = s.draws := rfl

/-! ### ticked -/

@[simp] theorem ticked_v (s : State) : (s.ticked).v = s.v := rfl
@[simp] theorem ticked_pc (s : State) : (s.ticked).pc = s.pc := rfl
@[simp] theorem ticked_i (s : State) : (s.ticked).i = s.i := rfl
@[simp] theorem ticked_stack (s : State) : (s.ticked).stack = s.stack := rfl
@[simp] theorem ticked_sp (s : State) : (s.ticked).sp = s.sp := rfl
@[simp] theorem ticked_dt (s : State) : (s.ticked).dt = countDown s.dt := rfl
@[simp] theorem ticked_st (s : State) : (s.ticked).st = countDown s.st := rfl
@[simp] theorem ticked_disp (s : State) : (s.ticked).disp = s.disp := rfl
@[simp] theorem ticked_mem (s : State) : (s.ticked).mem = s.mem := rfl
@[simp] theorem ticked_status (s : State) : (s.ticked).status = s.status := rfl
@[simp] theorem ticked_shutdown (s : State) : (s.ticked).shutdown = s.shutdown := rfl
@[simp] theorem ticked_started (s : State) : (s.ticked).started = s.started := rfl
@[simp] theorem ticked_output (s : State) : (s.ticked).output = s.output := rfl
@[simp] theorem ticked_agenda (s : State) : (s.ticked).agenda = s.agenda := rfl
@[simp] theorem ticked_draws (s : State) : (s.ticked).draws = s.draws := rfl

/-! ### blit -/

@[simp] theorem blit_v (s : State) (x0 y0 n : Nat) : (s.blit x0 y0 n).v = s.v.set 15 (flagOf (Display.collides s.disp x0 y0 (s.readBytes s.i.toNat n))) := rfl
@[simp] theorem blit_pc (s : State) (x0 y0 n : Nat) : (s.blit x0 y0 n).pc = s.pc := rfl
@[simp] theorem blit_i (s : State) (x0 y0 n : Nat) : (s.blit x0 y0 n).i = s.i := rfl
@[simp] theorem blit_stack (s : State) (x0 y0 n : Nat) : (s.blit x0 y0 n).stack = s.stack := rfl
@[simp] theorem blit_sp (s : State) (x0 y0 n : Nat) : (s.blit x0 y0 n).sp = s.sp := rfl
@[simp] theorem blit_dt (s : State) (x0 y0 n : Nat) : (s.blit x0 y0 n).dt = s.dt := rfl
@[simp] theorem blit_st (s : State) (x0 y0 n : Nat) : (s.blit x0 y0 n).st = s.st := rfl
@[simp] theorem blit_disp (s : State) (x0 y0 n : Nat) : (s.blit x0 y0 n).disp = Display.draw s.disp x0 y0 (s.readBytes s.i.toNat n) := rfl
@[simp] theorem blit_mem (s : State) (x0 y0 n : Nat) : (s.blit x0 y0 n).mem = s.mem := rfl
@[simp] theorem blit_status (s : State) (x0 y0 n : Nat) : (s.blit x0 y0 n).status = s.status := rfl
@[simp] theorem blit_shutdown (s : State) (x0 y0 n : Nat) : (s.blit x0 y0 n).shutdown = s.shutdown := rfl
@[simp] theorem blit_started (s : State) (x0 y0 n : Nat) : (s.blit x0 y0 n).started = s.started := rfl
@[simp] theorem blit_output (s : State) (x0 y0 n : Nat) : (s.blit x0 y0 n).output = s.output ++ [.displayUpdated] := rfl
@[simp] theorem blit_agenda (s : State) (x0 y0 n : Nat) : (s.blit x0 y0 n).agenda = s.agenda := rfl
@[simp] theorem blit_draws (s : State) (x0 y0 n : Nat) : (s.blit x0 y0 n).draws = s.draws := rfl

/-! ### resetWith -/

theorem reset_eq : State.reset = State.resetWith defaultFont := rfl
@[simp] theorem resetWith_v (font : Font) : (State.resetWith font).v = Vector.replicate 16 0 := rfl
@[simp] theorem resetWith_pc (font : Font) : (State.resetWith font).pc = 0x0200 := rfl
@[simp] theorem resetWith_i (font : Font) : (State.resetWith font).i = 0 := rfl
@[simp] theorem resetWith_stack (font : Font) : (State.resetWith font).stack = Vector.replicate 16 0 := rfl
@[simp] theorem resetWith_sp (font : Font) : (State.resetWith font).sp = 0 := rfl
@[simp] theorem resetWith_dt (font : Font) : (State.resetWith font).dt = 0 := rfl
@[simp] theorem resetWith_st (font : Font) : (State.resetWith font).st = 0 := rfl
@[simp] theorem resetWith_disp (font : Font) : (State.resetWith font).disp = Vector.replicate 32 0 := rfl
@[simp] theorem resetWith_mem (font : Font) : (State.resetWith font).mem = Memory.blank font := rfl
@[simp] theorem resetWith_status (font : Font) : (State.resetWith font).status = .running := rfl
@[simp] theorem resetWith_shutdown (font : Font) : (State.resetWith font).shutdown = false := rfl
@[simp] theorem resetWith_started (font : Font) : (State.resetWith font).started = false := rfl
@[simp] theorem resetWith_output (font : Font) : (State.resetWith font).output = [] := rfl
@[simp] theorem resetWith_agenda (font : Font) : (State.resetWith font).agenda = [] := rfl
@[simp] theorem resetWith_draws (font : Font) : (State.resetWith font).draws = 0 := rfl

end Sys2Proof.Machine.State
end

