-- ==== Sys2Proof/Laws/Ops.lean ====
section
/-! SUPPORT. One lemma per shared operation: everything it can do, for proofs to cite instead of unfolding it. -/

namespace Sys2Proof.Machine.State

theorem reg_eq (s : State) (r : Reg) : s.reg r = s.v[r.val] := rfl

@[simp] theorem reg_setReg (s : State) (r q : Reg) (b : Byte) :
    (s.setReg r b).reg q = if q = r then b else s.reg q := by
  simp only [reg, setReg, Vector.getElem_set, Fin.ext_iff, eq_comm]

/-- `push` fails exactly on a full stack; else it writes `S[SP]` and increments SP (R19). -/
theorem push_eq_none_iff (s : State) (w : Word) : s.push w = none ↔ s.sp.val = 16 := by
  rw [push]
  split <;> rename_i h <;> simp at h ⊢ <;> omega

theorem push_of_lt {s : State} (w : Word) (h : s.sp.val < 16) :
    s.push w = some { s with stack := s.stack.set s.sp.val w, sp := ⟨s.sp.val + 1, by omega⟩ } := by
  rw [push, dif_pos h]

/-- `pop` fails exactly on an empty stack; else it decrements SP and reads the entry there (R20). -/
theorem pop_eq_none_iff (s : State) : s.pop = none ↔ s.sp.val = 0 := by
  rw [pop]
  split <;> simp_all

theorem pop_of_pos {s : State} (h : 0 < s.sp.val) :
    s.pop = some (s.stack[s.sp.val - 1]'(by omega), { s with sp := ⟨s.sp.val - 1, by omega⟩ }) := by
  rw [pop, if_neg (by omega)]
  simp [Vector.getD, show s.sp.val - 1 < 16 by omega]

/-- `checkRange` either goes on or raises MemoryBounds (R45, R206). -/
theorem checkRange_of_inBounds {s t : State} {n : Nat} (h : n = 0 ∨ s.i.toNat + n ≤ 0x1000) : s.checkRange n t = t := by
  rw [checkRange, if_pos ((Memory.inBounds_iff _ _).mpr h)]

theorem checkRange_of_out {s t : State} {n : Nat} (h0 : n ≠ 0) (h : 0x1000 < s.i.toNat + n) :
    s.checkRange n t = s.raise .memoryBounds (lowestOffending s.i) := by
  rw [checkRange, if_neg]
  rw [Memory.inBounds_iff]
  omega

theorem checkRange_cases (s t : State) (n : Nat) :
    ((n = 0 ∨ s.i.toNat + n ≤ 0x1000) ∧ s.checkRange n t = t) ∨
    (n ≠ 0 ∧ 0x1000 < s.i.toNat + n ∧ s.checkRange n t = s.raise .memoryBounds (lowestOffending s.i)) := by
  by_cases h : n = 0 ∨ s.i.toNat + n ≤ 0x1000
  · exact .inl ⟨h, checkRange_of_inBounds h⟩
  · rw [not_or, not_le] at h
    exact .inr ⟨h.1, h.2, checkRange_of_out h.1 h.2⟩

@[simp] theorem length_regsUpTo (s : State) (x : Reg) : (s.regsUpTo x).length = x.val + 1 := by
  simp [regsUpTo]

theorem getD_regsUpTo (s : State) (x : Reg) {k : Nat} (hk : k ≤ x.val) :
    (s.regsUpTo x).getD k 0 = s.v[k]'(by omega) := by
  simp [regsUpTo, List.getD_eq_getElem?_getD, show k < x.val + 1 by omega]

@[simp] theorem length_readBytes (s : State) (a n : Nat) : (s.readBytes a n).length = n := by
  simp [readBytes]

theorem getElem?_readBytes (s : State) (a n k : Nat) :
    (s.readBytes a n)[k]? = if k < n then some (s.readByte (a + k)) else none := by
  by_cases h : k < n <;> simp [readBytes, h]

theorem v_loadUpTo (s : State) (x : Reg) (a : Nat) {k : Nat} (hk : k < 16) :
    (s.loadUpTo x a).v[k] = if k ≤ x.val then s.readByte (a + k) else s.v[k] := by
  simp only [loadUpTo, Vector.getElem_ofFn]

theorem length_bcdDigits (a : Byte) : (bcdDigits a).length = 3 := rfl

/-- What the sprite covers of row `y` (R161): its byte `y - y0` when the row is drawn. -/
theorem spriteAt_readBytes (s : State) (a n x0 y0 y : Nat) :
    spriteAt (s.readBytes a n) x0 y0 y =
      if y0 ≤ y ∧ y < y0 + n then spriteRow (s.readByte (a + (y - y0))) x0 else 0 := by
  rw [spriteAt, getElem?_readBytes]
  by_cases h : y0 ≤ y
  · by_cases h2 : y < y0 + n
    · simp [h, h2, show y - y0 < n by omega]
    · simp [h2, show ¬ y - y0 < n by omega]
  · simp [h]

/-- A multi-byte store keeps the canonical form of memory when it stays inside Memory. -/
theorem wf_writeBytes {s : State} {a : Nat} {l : List Byte} (h : Memory.wf s.mem = true) (ha : a + l.length ≤ 0x1000) :
    Memory.wf (s.writeBytes a l).mem = true :=
  Memory.wf_writeList h ha

end Sys2Proof.Machine.State
end

