-- ==== Sys2Proof/Laws/Step.lean ====
section
/-! SUPPORT. What a step is, case by case: the lemmas that later proofs cite instead of unfolding `step`, `engineStep`,
`instructionStep` and `fetch` (spec/40_engine_cycle.md). -/

namespace Sys2Proof.Machine

/-! ### The fetch -/

theorem fetch_of_lt {s : State} (h : s.pc.toNat + 1 < 0x1000) :
    fetch s = .word (wordOfBytes (s.mem.read s.pc.toNat) (s.mem.read (s.pc.toNat + 1))) := by
  rw [fetch, if_neg (by simp; omega), if_neg (by simp; omega)]
  rfl

theorem fetch_of_eq {s : State} (h : s.pc.toNat = 0xFFF) : fetch s = .lastByte := by
  rw [fetch, if_neg (by simp; omega), if_pos (by simp; omega)]

theorem fetch_of_ge {s : State} (h : 0x1000 ≤ s.pc.toNat) : fetch s = .exhausted := by
  rw [fetch, if_pos (by simpa using h)]

/-! ### Whose turn it is -/

/-- When the engine moves next, the step is the engine's on the state with the agenda's head taken off. -/
theorem step_of_engineNext {s : State} {rest : List Action} (h : s.engineNext rest) :
    step s = engineStep (s.setAgenda rest) := by
  obtain ⟨h, rfl⟩ | h := h
  · cases s
    subst h
    rfl
  · rw [step, h]
    rfl

/-- When the engine moves next and may run, the step is an instruction step. -/
theorem step_of_canRun {s : State} {rest : List Action} (h : s.engineNext rest) (hr : s.canRun) :
    step s = instructionStep exec (s.setAgenda rest) := by
  rw [step_of_engineNext h, engineStep, State.setAgenda_status, State.setAgenda_shutdown, hr.1, hr.2]
  rfl

/-- Any other action is done on the state with the agenda's head taken off. -/
theorem step_of_action {s : State} {e : Action} {rest : List Action} (h : s.agenda = e :: rest) :
    step s = act e (s.setAgenda rest) := by
  rw [step, h]

/-- An instruction step halts, faults at the last byte, reports an unknown word, or runs an instruction. -/
theorem instructionStep_cases (s : State) :
    (0x1000 ≤ s.pc.toNat ∧ instructionStep exec s = .next s.begun.halt) ∨
    (s.pc.toNat = 0xFFF ∧ instructionStep exec s = .next (fetchFault s.begun)) ∨
    (s.pc.toNat + 1 < 0x1000 ∧ ∃ w, fetch s = .word w ∧ decodeWord w = none ∧
      instructionStep exec s = .next (reportUnknown w s.begun)) ∨
    (s.pc.toNat + 1 < 0x1000 ∧ ∃ w i, fetch s = .word w ∧ decodeWord w = some i ∧
      instructionStep exec s = exec i s.begun.advance) := by
  rcases Nat.lt_trichotomy (s.pc.toNat + 1) 0x1000 with h | h | h
  · have hf := fetch_of_lt h
    cases hd : decodeWord (wordOfBytes (s.mem.read s.pc.toNat) (s.mem.read (s.pc.toNat + 1))) with
    | none => exact .inr (.inr (.inl ⟨h, _, hf, hd, by simp only [instructionStep, hf, dispatchWord, hd]⟩))
    | some i => exact .inr (.inr (.inr ⟨h, _, i, hf, hd, by simp only [instructionStep, hf, dispatchWord, hd]⟩))
  · exact .inr (.inl ⟨by omega, by simp only [instructionStep, fetch_of_eq (show s.pc.toNat = 0xFFF by omega)]⟩)
  · exact .inl ⟨by omega, by simp only [instructionStep, fetch_of_ge (show 0x1000 ≤ s.pc.toNat by omega)]⟩

/-- A run of the host's machine, one step at a time. -/
theorem run_succ_of_step {n : Nat} {s t : State} (h : step s = .next t) :
    Host.Core.run Sys2Proof.core (n + 1) s = Host.Core.run Sys2Proof.core n t := by
  have run_succ (M : Host.Core) (n : Nat) (s t : M.State) (h : M.step s = .next t) : M.run (n + 1) s = M.run n t := by
    rw [Host.Core.run, h]
  exact run_succ Sys2Proof.core n s t h

/-- The table word's instruction is its 16-bit word's. -/
theorem decodeTableWord_eq (nbits w : Nat) :
    decodeTableWord nbits w = decodeWord (BitVec.ofNat 16 (w % 2 ^ nbits)) := by
  unfold decodeTableWord
  simp only [decodeBytes, wordOfBytes_hiByte_loByte]
  cases decodeWord (BitVec.ofNat 16 (w % 2 ^ nbits)) <;> rfl

end Sys2Proof.Machine
end

