-- ==== Sys2Proof/Machine/Execution.lean ====
section
/-! DEFINITION. Executions without end, and the fairness a claim about one may assume (spec/40_engine_cycle.md R80 to R82,
60_exceptions.md R218, R228, 70_reset_and_hazards.md R259). A single `State` holds the finitely many actions that are known
to come; an execution gives every step its action anew, so it holds any interleaving, for ever (log 28). -/

namespace Sys2Proof.Machine

/-- An infinite execution: at each point a state, the action taken there, and whether the host has a step request
outstanding. Each action is enabled when it is taken (R80), since the step answers a next state. -/
structure Execution where
  /-- the state at each point -/
  state : Nat → State
  /-- the action taken at each point (R83, R216) -/
  action : Nat → Action
  /-- is the host requesting an engine step at this point? It may at any cadence, or never (R82, R228) -/
  request : Nat → Bool
  /-- the next state is what `step` answers when this action is the one that is due -/
  steps : ∀ n, step ((state n).setAgenda [action n]) = .next (state (n + 1))
  /-- an engine step is a response to a step request (R82) -/
  responds : ∀ n, action n = .engine → request n = true

/-- The condition holds at every point from `n` on. -/
def Execution.always (n : Nat) (p : Nat → Prop) : Prop := ∀ m, n ≤ m → p m

/-- The condition holds at some point from `n` on. -/
def Execution.eventually (n : Nat) (p : Nat → Prop) : Prop := ∃ m, n ≤ m ∧ p m

/-- Weak fairness for the ticker: once it stays enabled, `shutdown = 0`, it steps (R81, R218, R259). The host can not
stop it before the shutdown (R228). -/
def Execution.tickerFair (x : Execution) : Prop :=
  ∀ n, Execution.always n (fun m => (x.state m).shutdown = false) → Execution.eventually n (fun m => x.action m = .tick)

/-- Weak fairness for the engine: once it stays enabled and the host keeps requesting steps, it steps (R81, R82, R259). -/
def Execution.engineFair (x : Execution) : Prop :=
  ∀ n, Execution.always n
      (fun m => x.request m = true ∧ (x.state m).status = .running ∧ (x.state m).shutdown = false) →
    Execution.eventually n (fun m => x.action m = .engine)

/-- Weak fairness for each agent: the only liveness a claim may take as a premise (R82, R259). It bounds no ratio. -/
def Execution.fair (x : Execution) : Prop := x.tickerFair ∧ x.engineFair

end Sys2Proof.Machine
end

