-- ==== Sys2Proof/Laws/Execution.lean ====
section
/-! SUPPORT. What fairness gives in an execution without end (spec/60_exceptions.md R216 to R220, 70_reset_and_hazards.md
R259). -/

namespace Sys2Proof.Machine

theorem toNat_countDown (t : Byte) : (countDown t).toNat = t.toNat - 1 := by
  by_cases h : t = 0
  · simp [countDown, h]
  · have h0 : t.toNat ≠ 0 := fun h0 => h (BitVec.eq_of_toNat_eq (by simpa using h0))
    rw [countDown, if_neg h, BitVec.toNat_sub_of_le (BitVec.le_def.mpr (by simp; omega))]
    rfl

namespace Execution

/-- What holds from `n` on holds from any later point on. -/
theorem always_of_le {n k : Nat} {p : Nat → Prop} (h : always n p) (hk : n ≤ k) : always k p :=
  fun m hm => h m (Nat.le_trans hk hm)

/-- A ticker step of an execution: it was enabled, and both timers are decremented (R216). -/
theorem state_succ_of_tick {x : Execution} {n : Nat} (h : x.action n = .tick) :
    (x.state n).shutdown = false ∧ x.state (n + 1) = ((x.state n).setAgenda []).ticked := by
  have hs := x.steps n
  rw [h, step_of_action (e := .tick) (rest := []) rfl] at hs
  simp only [act, tickerStep, State.setAgenda_shutdown] at hs
  cases hd : (x.state n).shutdown <;> simp [hd] at hs
  exact ⟨rfl, hs.symm⟩

/-- "under weak fairness the ticker steps infinitely often while `shutdown = 0`" (R218). -/
theorem ticks_infinitely_often {x : Execution} (hf : x.tickerFair) {n : Nat}
    (h : always n fun m => (x.state m).shutdown = false) :
    ∀ k, n ≤ k → eventually k fun m => x.action m = .tick :=
  fun k hk => hf k (always_of_le h hk)

/-- From `shutdown = 0` on the host can not stop the ticker (R228): either the shutdown comes, or another tick does. -/
theorem tick_or_shutdown {x : Execution} (hf : x.tickerFair) (n : Nat) :
    (eventually n fun m => (x.state m).shutdown = true) ∨ eventually n fun m => x.action m = .tick := by
  by_cases h : always n fun m => (x.state m).shutdown = false
  · exact .inr (hf n h)
  · simp only [always, not_forall, Bool.not_eq_false] at h
    obtain ⟨m, hm, h⟩ := h
    exact .inl ⟨m, hm, h⟩

/-- A number that never rises stays below what it once was. -/
theorem le_of_never_rises {f : Nat → Nat} {n : Nat} (h : ∀ m, n ≤ m → f (m + 1) ≤ f m) {m : Nat} (hm : n ≤ m) :
    f m ≤ f n := by
  induction m, hm using Nat.le_induction with
  | base => exact Nat.le_refl _
  | succ m hm ih => exact Nat.le_trans (h m hm) ih

/-- The delay timer runs out (R220, R259): in an execution fair to the ticker, without shutdown and with no write that
raises DT, DT is 0 at some point. -/
theorem delay_timer_runs_out {x : Execution} (hf : x.tickerFair) {n : Nat}
    (hs : always n fun m => (x.state m).shutdown = false)
    (hd : ∀ m, n ≤ m → (x.state (m + 1)).dt.toNat ≤ (x.state m).dt.toNat) :
    eventually n fun m => (x.state m).dt = 0 := by
  suffices h : ∀ v k, n ≤ k → (x.state k).dt.toNat ≤ v → eventually k fun m => (x.state m).dt = 0 from
    h _ n (Nat.le_refl n) (Nat.le_refl _)
  intro v
  induction v with
  | zero =>
    intro k _ hv
    exact ⟨k, Nat.le_refl k, BitVec.eq_of_toNat_eq (by simpa using hv)⟩
  | succ v ih =>
    intro k hk hv
    obtain ⟨m, hm, ht⟩ := hf k (always_of_le hs hk)
    have hle : (x.state m).dt.toNat ≤ v + 1 :=
      Nat.le_trans (le_of_never_rises (f := fun m => (x.state m).dt.toNat) (n := k) (fun j hj => hd j (by omega)) hm) hv
    have hdt : (x.state (m + 1)).dt.toNat ≤ v := by
      rw [(state_succ_of_tick ht).2, State.ticked_dt, toNat_countDown, State.setAgenda_dt]
      omega
    obtain ⟨j, hj, h0⟩ := ih (m + 1) (by omega) hdt
    exact ⟨j, by omega, h0⟩

end Execution

end Sys2Proof.Machine
end

