-- ==== Sys2Proof/Laws/PerInstr.lean ====
section
/-! SUPPORT. The family TableRow: the word of an instruction selects the instruction's row of the opcode table
(spec/30_encoding.md R64). -/

namespace Sys2Proof.Laws.TableRow

/-- The word `encode i` selects row `i.row`, and that row is one of the table's 34. -/
def Statement (i : Instr) : Prop := i.row.selects (encode i) = true ∧ i.row ∈ opcodeTable

theorem nibble_and_ones (n : Nibble) : n &&& 0xF#4 = n := BitVec.and_allOnes

theorem byte_and_ones (b : Byte) : b &&& 0xFF#8 = b := BitVec.and_allOnes

theorem nnn_selects (op : Nibble) (a : Addr12) : wordNNN op a &&& 0xF000 = wordNNN op 0 := by
  show (op ++ a) &&& (0xF#4 ++ 0#12) = op ++ 0#12
  rw [BitVec.and_append, nibble_and_ones, BitVec.and_zero]

theorem xnn_selects (op : Nibble) (x : Reg) (b : Byte) : wordXNN op x b &&& 0xF000 = wordXNN op 0 0 := by
  show (op ++ regBits x ++ b) &&& (0xF#4 ++ 0#4 ++ 0#8) = op ++ 0#4 ++ 0#8
  rw [BitVec.and_append, BitVec.and_append, nibble_and_ones, BitVec.and_zero, BitVec.and_zero]

theorem xfn_selects (op : Nibble) (x : Reg) (b : Byte) : wordXNN op x b &&& 0xF0FF = wordXNN op 0 b := by
  show (op ++ regBits x ++ b) &&& (0xF#4 ++ 0#4 ++ 0xFF#8) = op ++ 0#4 ++ b
  rw [BitVec.and_append, BitVec.and_append, nibble_and_ones, BitVec.and_zero, byte_and_ones]

theorem xyn_selects (op : Nibble) (x y : Reg) (n : Nibble) : wordXYN op x y n &&& 0xF00F = wordXYN op 0 0 n := by
  show (op ++ regBits x ++ regBits y ++ n) &&& (0xF#4 ++ 0#4 ++ 0#4 ++ 0xF#4) = op ++ 0#4 ++ 0#4 ++ n
  rw [BitVec.and_append, BitVec.and_append, BitVec.and_append, nibble_and_ones, nibble_and_ones, BitVec.and_zero,
    BitVec.and_zero]

theorem drw_selects (op : Nibble) (x y : Reg) (n : Nibble) : wordXYN op x y n &&& 0xF000 = wordXYN op 0 0 0 := by
  show (op ++ regBits x ++ regBits y ++ n) &&& (0xF#4 ++ 0#4 ++ 0#4 ++ 0#4) = op ++ 0#4 ++ 0#4 ++ 0#4
  rw [BitVec.and_append, BitVec.and_append, BitVec.and_append, nibble_and_ones, BitVec.and_zero,
    BitVec.and_zero, BitVec.and_zero]

theorem cls : Statement .cls :=
  ⟨by decide, by decide⟩

theorem ret : Statement .ret :=
  ⟨by decide, by decide⟩

theorem jp (a : Addr12) : Statement (.jp a) :=
  ⟨by simp only [Instr.row, encode, OpcodeRow.selects, nnn_selects]; decide, by simp only [Instr.row]; decide⟩

theorem call (a : Addr12) : Statement (.call a) :=
  ⟨by simp only [Instr.row, encode, OpcodeRow.selects, nnn_selects]; decide, by simp only [Instr.row]; decide⟩

theorem seImm (x : Reg) (b : Byte) : Statement (.seImm x b) :=
  ⟨by simp only [Instr.row, encode, OpcodeRow.selects, xnn_selects]; decide, by simp only [Instr.row]; decide⟩

theorem sneImm (x : Reg) (b : Byte) : Statement (.sneImm x b) :=
  ⟨by simp only [Instr.row, encode, OpcodeRow.selects, xnn_selects]; decide, by simp only [Instr.row]; decide⟩

theorem seReg (x y : Reg) : Statement (.seReg x y) :=
  ⟨by simp only [Instr.row, encode, OpcodeRow.selects, xyn_selects]; decide, by simp only [Instr.row]; decide⟩

theorem ldImm (x : Reg) (b : Byte) : Statement (.ldImm x b) :=
  ⟨by simp only [Instr.row, encode, OpcodeRow.selects, xnn_selects]; decide, by simp only [Instr.row]; decide⟩

theorem addImm (x : Reg) (b : Byte) : Statement (.addImm x b) :=
  ⟨by simp only [Instr.row, encode, OpcodeRow.selects, xnn_selects]; decide, by simp only [Instr.row]; decide⟩

theorem ldReg (x y : Reg) : Statement (.ldReg x y) :=
  ⟨by simp only [Instr.row, encode, OpcodeRow.selects, xyn_selects]; decide, by simp only [Instr.row]; decide⟩

theorem orReg (x y : Reg) : Statement (.orReg x y) :=
  ⟨by simp only [Instr.row, encode, OpcodeRow.selects, xyn_selects]; decide, by simp only [Instr.row]; decide⟩

theorem andReg (x y : Reg) : Statement (.andReg x y) :=
  ⟨by simp only [Instr.row, encode, OpcodeRow.selects, xyn_selects]; decide, by simp only [Instr.row]; decide⟩

theorem xorReg (x y : Reg) : Statement (.xorReg x y) :=
  ⟨by simp only [Instr.row, encode, OpcodeRow.selects, xyn_selects]; decide, by simp only [Instr.row]; decide⟩

theorem addReg (x y : Reg) : Statement (.addReg x y) :=
  ⟨by simp only [Instr.row, encode, OpcodeRow.selects, xyn_selects]; decide, by simp only [Instr.row]; decide⟩

theorem subReg (x y : Reg) : Statement (.subReg x y) :=
  ⟨by simp only [Instr.row, encode, OpcodeRow.selects, xyn_selects]; decide, by simp only [Instr.row]; decide⟩

theorem shr (x y : Reg) : Statement (.shr x y) :=
  ⟨by simp only [Instr.row, encode, OpcodeRow.selects, xyn_selects]; decide, by simp only [Instr.row]; decide⟩

theorem subnReg (x y : Reg) : Statement (.subnReg x y) :=
  ⟨by simp only [Instr.row, encode, OpcodeRow.selects, xyn_selects]; decide, by simp only [Instr.row]; decide⟩

theorem shl (x y : Reg) : Statement (.shl x y) :=
  ⟨by simp only [Instr.row, encode, OpcodeRow.selects, xyn_selects]; decide, by simp only [Instr.row]; decide⟩

theorem sneReg (x y : Reg) : Statement (.sneReg x y) :=
  ⟨by simp only [Instr.row, encode, OpcodeRow.selects, xyn_selects]; decide, by simp only [Instr.row]; decide⟩

theorem ldI (a : Addr12) : Statement (.ldI a) :=
  ⟨by simp only [Instr.row, encode, OpcodeRow.selects, nnn_selects]; decide, by simp only [Instr.row]; decide⟩

theorem jpV0 (a : Addr12) : Statement (.jpV0 a) :=
  ⟨by simp only [Instr.row, encode, OpcodeRow.selects, nnn_selects]; decide, by simp only [Instr.row]; decide⟩

theorem rnd (x : Reg) (b : Byte) : Statement (.rnd x b) :=
  ⟨by simp only [Instr.row, encode, OpcodeRow.selects, xnn_selects]; decide, by simp only [Instr.row]; decide⟩

theorem drw (x y : Reg) (n : Nibble) : Statement (.drw x y n) :=
  ⟨by simp only [Instr.row, encode, OpcodeRow.selects, drw_selects]; decide, by simp only [Instr.row]; decide⟩

theorem skp (x : Reg) : Statement (.skp x) :=
  ⟨by simp only [Instr.row, encode, OpcodeRow.selects, xfn_selects]; decide, by simp only [Instr.row]; decide⟩

theorem sknp (x : Reg) : Statement (.sknp x) :=
  ⟨by simp only [Instr.row, encode, OpcodeRow.selects, xfn_selects]; decide, by simp only [Instr.row]; decide⟩

theorem ldVxDT (x : Reg) : Statement (.ldVxDT x) :=
  ⟨by simp only [Instr.row, encode, OpcodeRow.selects, xfn_selects]; decide, by simp only [Instr.row]; decide⟩

theorem ldVxK (x : Reg) : Statement (.ldVxK x) :=
  ⟨by simp only [Instr.row, encode, OpcodeRow.selects, xfn_selects]; decide, by simp only [Instr.row]; decide⟩

theorem ldDTVx (x : Reg) : Statement (.ldDTVx x) :=
  ⟨by simp only [Instr.row, encode, OpcodeRow.selects, xfn_selects]; decide, by simp only [Instr.row]; decide⟩

theorem ldSTVx (x : Reg) : Statement (.ldSTVx x) :=
  ⟨by simp only [Instr.row, encode, OpcodeRow.selects, xfn_selects]; decide, by simp only [Instr.row]; decide⟩

theorem addI (x : Reg) : Statement (.addI x) :=
  ⟨by simp only [Instr.row, encode, OpcodeRow.selects, xfn_selects]; decide, by simp only [Instr.row]; decide⟩

theorem ldF (x : Reg) : Statement (.ldF x) :=
  ⟨by simp only [Instr.row, encode, OpcodeRow.selects, xfn_selects]; decide, by simp only [Instr.row]; decide⟩

theorem ldB (x : Reg) : Statement (.ldB x) :=
  ⟨by simp only [Instr.row, encode, OpcodeRow.selects, xfn_selects]; decide, by simp only [Instr.row]; decide⟩

theorem storeRegs (x : Reg) : Statement (.storeRegs x) :=
  ⟨by simp only [Instr.row, encode, OpcodeRow.selects, xfn_selects]; decide, by simp only [Instr.row]; decide⟩

theorem loadRegs (x : Reg) : Statement (.loadRegs x) :=
  ⟨by simp only [Instr.row, encode, OpcodeRow.selects, xfn_selects]; decide, by simp only [Instr.row]; decide⟩

end Sys2Proof.Laws.TableRow
end

