-- ==== Sys2Proof/Machine/Listing.lean ====
section
/-! DEFINITION. Assembler statements and listings (spec/30_encoding.md R64 column 7, R71, R73, R74; decision D25). Nothing
in the machine reads them. Immediates are written as numbers: bytes and row counts in decimal, addresses in
hexadecimal (R73 allows both; log 31). -/

namespace Sys2Proof.Machine

/-- One hexadecimal digit. -/
def hexDigit (n : Nibble) : Char := ['0', '1', '2', '3', '4', '5', '6', '7', '8', '9', 'A', 'B', 'C', 'D', 'E', 'F'].getD n.toNat '0'

/-- A listing's four digits, high byte first (R74). -/
def listingWord (w : Word) : String :=
  String.ofList [hexDigit (opField w), hexDigit (xField w), hexDigit (yField w), hexDigit (nField w)]

/-- A general register: `V` and one hexadecimal digit (R73). -/
def regName (r : Reg) : String := String.ofList ['V', hexDigit (regBits r)]

/-- A byte or a row count, as a number. -/
def immediateText (n : Nat) : String := Nat.repr n

/-- An address in C's hexadecimal notation. -/
def addressText (a : Addr12) : String :=
  "0x" ++ String.ofList [hexDigit (a.extractLsb' 8 4), hexDigit (a.extractLsb' 4 4), hexDigit (a.extractLsb' 0 4)]

/-- A mnemonic, a space, and the operands, separated by commas, destination first (R73). -/
def statement (mnemonic : String) (operands : List String) : String :=
  match operands with
  | [] => mnemonic
  | a :: rest => mnemonic ++ " " ++ rest.foldl (fun t b => t ++ "," ++ b) a

/-- The assembler statement of an instruction: its form of R64. SHR and SHL leave Y out (R71). -/
def assemblyText (i : Instr) : String :=
  match i with
  | .cls => statement "CLS" []
  | .ret => statement "RET" []
  | .jp nnn => statement "JP" [addressText nnn]
  | .call nnn => statement "CALL" [addressText nnn]
  | .seImm x nn => statement "SE" [regName x, immediateText nn.toNat]
  | .sneImm x nn => statement "SNE" [regName x, immediateText nn.toNat]
  | .seReg x y => statement "SE" [regName x, regName y]
  | .ldImm x nn => statement "LD" [regName x, immediateText nn.toNat]
  | .addImm x nn => statement "ADD" [regName x, immediateText nn.toNat]
  | .ldReg x y => statement "LD" [regName x, regName y]
  | .orReg x y => statement "OR" [regName x, regName y]
  | .andReg x y => statement "AND" [regName x, regName y]
  | .xorReg x y => statement "XOR" [regName x, regName y]
  | .addReg x y => statement "ADD" [regName x, regName y]
  | .subReg x y => statement "SUB" [regName x, regName y]
  | .shr x _ => statement "SHR" [regName x]
  | .subnReg x y => statement "SUBN" [regName x, regName y]
  | .shl x _ => statement "SHL" [regName x]
  | .sneReg x y => statement "SNE" [regName x, regName y]
  | .ldI nnn => statement "LD" ["I", addressText nnn]
  | .jpV0 nnn => statement "JP" ["V0", addressText nnn]
  | .rnd x nn => statement "RND" [regName x, immediateText nn.toNat]
  | .drw x y n => statement "DRW" [regName x, regName y, immediateText n.toNat]
  | .skp x => statement "SKP" [regName x]
  | .sknp x => statement "SKNP" [regName x]
  | .ldVxDT x => statement "LD" [regName x, "DT"]
  | .ldVxK x => statement "LD" [regName x, "K"]
  | .ldDTVx x => statement "LD" ["DT", regName x]
  | .ldSTVx x => statement "LD" ["ST", regName x]
  | .addI x => statement "ADD" ["I", regName x]
  | .ldF x => statement "LD" ["F", regName x]
  | .ldB x => statement "LD" ["B", regName x]
  | .storeRegs x => statement "LD" ["[I]", regName x]
  | .loadRegs x => statement "LD" [regName x, "[I]"]

end Sys2Proof.Machine
end

