-- ==== Sys2Proof/Tests/Slice0.lean ====
section
/-! SUPPORT. Tests. Expected results come from the spec: the words from spec/30_encoding.md R64, the effects from the
vectors of spec/95_test_vectors.md (the vector's name stands in each docstring). Each is one step. The last section
gives, for every obligation with hypotheses, a concrete state and operands that meet them. -/

namespace Sys2Proof.Tests

open Sys2Proof Machine

/-! ## Helpers -/

/-- The state after one step, if the step answers one. -/
def after (s : State) : Option State :=
  match step s with
  | .next t => some t
  | .fault _ => none
  | .refused _ => none

/-- The reset state with some registers set. -/
def withV (l : List (Reg × Byte)) (s : State := State.reset) : State := l.foldl (fun t p => t.setReg p.1 p.2) s

/-- One step with the word `w` at 0x200. -/
def run (w : Nat) (s : State) : Option State := after (s.withFetchWord 16 w)

/-- One step with the word `w` at `a`. -/
def runAt (a : Word) (w : Nat) (s : State) : Option State := run w (s.setPc a)

/-- V[1], VF and `pc`. -/
def v1 (t : State) : Byte × Byte × Word := (t.v[1], t.v[15], t.pc)

/-- `pc`, `status` and `shutdown`. -/
def stop (t : State) : Word × Status × Bool := (t.pc, t.status, t.shutdown)

/-- Depth, and the entry at `k`. -/
def stackTop (k : Fin 16) (t : State) : Fin 17 × Word × Word := (t.sp, t.stack[k.val], t.pc)

/-- I and VF. -/
def indexFlag (t : State) : Word × Byte := (t.i, t.v[15])

/-- Three bytes of memory, and I. -/
def three (a : Nat) (t : State) : List Byte × Word := (t.readBytes a 3, t.i)

/-! ## Well-formedness: what the checks refuse -/

theorem test_wellformed_shr_refuses_y : Instr.assemblerForm (.shr 1 10) = false := by decide

theorem test_wellformed_shl_refuses_y : Instr.assemblerForm (.shl 1 11) = false := by decide

theorem test_wellformed_shr_admits_y0 : Instr.assemblerForm (.shr 1 0) = true := by decide

/-- S8: a program of 3585 bytes is refused, one of 3584 is not. -/
theorem test_programFits_bound :
    programFits (List.replicate 3585 0) = false ∧ programFits (List.replicate 3584 0) = true := by
  constructor <;> rw [programFits, List.length_replicate] <;> rfl

theorem test_decodeBytes_refuses_truncated : decodeBytes [0x61] = .error .truncated := by rfl

theorem test_decodeBytes_refuses_unknown : decodeBytes [0x51, 0x21, 0xFF] = .error (.unknownOpcode 0x5121) := by rfl

/-! ## Decoding: words written out bit by bit from R64 -/

theorem test_decode_family0 :
    decodeWord 0b0000000011100000#16 = some .cls ∧ decodeWord 0b0000000011101110#16 = some .ret := by decide

theorem test_decode_addresses :
    decodeWord 0b0001111000000001#16 = some (.jp 0xE01) ∧ decodeWord 0b0010001000001010#16 = some (.call 0x20A) ∧
    decodeWord 0b1010001100000000#16 = some (.ldI 0x300) ∧ decodeWord 0b1011111111111110#16 = some (.jpV0 0xFFE) := by
  decide

theorem test_decode_immediates :
    decodeWord 0b0011111100000001#16 = some (.seImm 15 0x01) ∧ decodeWord 0b0100000100000101#16 = some (.sneImm 1 0x05) ∧
    decodeWord 0b0110000100000101#16 = some (.ldImm 1 0x05) ∧ decodeWord 0b0111000000000011#16 = some (.addImm 0 0x03) ∧
    decodeWord 0b1100000110001111#16 = some (.rnd 1 0x8F) := by decide

theorem test_decode_register_pairs :
    decodeWord 0b0101000100100000#16 = some (.seReg 1 2) ∧ decodeWord 0b1001110100100000#16 = some (.sneReg 13 2) := by
  decide

theorem test_decode_family8 :
    decodeWord 0b1000000100100000#16 = some (.ldReg 1 2) ∧ decodeWord 0b1000000100100001#16 = some (.orReg 1 2) ∧
    decodeWord 0b1000000100100010#16 = some (.andReg 1 2) ∧ decodeWord 0b1000000100100011#16 = some (.xorReg 1 2) ∧
    decodeWord 0b1000101010110100#16 = some (.addReg 10 11) ∧ decodeWord 0b1000000100100101#16 = some (.subReg 1 2) ∧
    decodeWord 0b1000000110100110#16 = some (.shr 1 10) ∧ decodeWord 0b1000000100100111#16 = some (.subnReg 1 2) ∧
    decodeWord 0b1000000110111110#16 = some (.shl 1 11) := by decide

theorem test_decode_drw : decodeWord 0b1101011110100101#16 = some (.drw 7 10 5) := by decide

theorem test_decode_familyE :
    decodeWord 0b1110000110011110#16 = some (.skp 1) ∧ decodeWord 0b1110000110100001#16 = some (.sknp 1) := by decide

theorem test_decode_familyF :
    decodeWord 0b1111001000000111#16 = some (.ldVxDT 2) ∧ decodeWord 0b1111001100001010#16 = some (.ldVxK 3) ∧
    decodeWord 0b1111001000010101#16 = some (.ldDTVx 2) ∧ decodeWord 0b1111000000011000#16 = some (.ldSTVx 0) ∧
    decodeWord 0b1111001000011110#16 = some (.addI 2) ∧ decodeWord 0b1111001100101001#16 = some (.ldF 3) ∧
    decodeWord 0b1111000000110011#16 = some (.ldB 0) ∧ decodeWord 0b1111111101010101#16 = some (.storeRegs 15) ∧
    decodeWord 0b1111101001100101#16 = some (.loadRegs 10) := by decide

/-- F9 to F14: words of no row. -/
theorem test_decode_unknown :
    ([0x0000, 0x00E1, 0x00FF, 0x0123, 0x0E00, 0x5121, 0x9121, 0x8128, 0x812D, 0x812F] : List Nat).all
      (fun w => (decodeTableWord 16 w).isNone) = true ∧
    ([0xE19F, 0xE100, 0xE1A2, 0xF100, 0xF11F, 0xF156, 0xF175, 0xF185, 0xF1FF] : List Nat).all
      (fun w => (decodeTableWord 16 w).isNone) = true := by decide

/-- The other direction: the encoder writes the spec's word. -/
theorem test_encode : encode (.drw 7 10 5) = 0xD7A5 ∧ encode (.loadRegs 10) = 0xFA65 ∧
    encodeBytes (.ldImm 1 5) = [0x61, 0x05] := by decide

/-- The statements of the listings of P1, P3 and P4, and of R64's row 33. -/
theorem test_assembly : (decodeWord 0x6105).map assemblyText = some "LD V1,5" ∧
    (decodeWord 0xA300).map assemblyText = some "LD I,0x300" ∧ (decodeWord 0xD012).map assemblyText = some "DRW V0,V1,2" ∧
    (decodeWord 0x00EE).map assemblyText = some "RET" ∧ (decodeWord 0x81A6).map assemblyText = some "SHR V1" ∧
    assemblyText (.storeRegs 15) = "LD [I],VF" ∧ listingWord 0xD7A5 = "D7A5" := by decide

/-! ## Control transfer -/

/-- A1 -/
theorem test_ret : (runAt 0x20C 0x00EE { State.reset with sp := 1, stack := State.reset.stack.set 0 0x0206 }).map
    (stackTop 0) = some (0, 0x0206, 0x0206) := by decide

/-- A3 -/
theorem test_ret_underflow : (run 0x00EE State.reset).map stop =
    some (0x0200, .faulted .stackUnderflow 0x200 0, true) := by decide

/-- A6 -/
theorem test_jp : (run 0x1201 State.reset).map State.pc = some 0x0201 := by decide

/-- A8 -/
theorem test_call : (runAt 0x204 0x220A State.reset).map (stackTop 0) = some (1, 0x0206, 0x020A) := by decide

/-- A10 -/
theorem test_call_overflow : (run 0x2300 { State.reset with sp := 16 }).map stop =
    some (0x0200, .faulted .stackOverflow 0x200 0x0202, true) := by decide

/-- A12, A13 -/
theorem test_seImm : (runAt 0x208 0x3000 State.reset).map State.pc = some 0x020C ∧
    (runAt 0x208 0x3000 (withV [(0, 1)])).map State.pc = some 0x020A := by decide

/-- A16, A17 -/
theorem test_sneImm : (run 0x4105 (withV [(1, 5)])).map State.pc = some 0x0202 ∧
    (run 0x4105 (withV [(1, 6)])).map State.pc = some 0x0204 := by decide

/-- A18, A19 -/
theorem test_seReg : (run 0x5120 (withV [(1, 7), (2, 7)])).map State.pc = some 0x0204 ∧
    (run 0x5120 (withV [(1, 7), (2, 8)])).map State.pc = some 0x0202 := by decide

/-- A21, A22 -/
theorem test_sneReg : (run 0x9120 (withV [(1, 7), (2, 8)])).map State.pc = some 0x0204 ∧
    (run 0x9120 (withV [(1, 7), (2, 7)])).map State.pc = some 0x0202 := by decide

/-- A26, A28 -/
theorem test_jpV0 : (run 0xBFFF (withV [(0, 0xFF)])).map State.pc = some 0x10FE ∧
    (run 0xB300 (withV [(3, 9)])).map State.pc = some 0x0300 := by decide

/-! ## Register load, arithmetic, logic -/

/-- B1 -/
theorem test_ldImm : (run 0x6105 State.reset).map v1 = some (0x05, 0, 0x0202) := by decide

/-- B4 -/
theorem test_addImm_no_flag : (run 0x7001 (withV [(0, 0xFF)])).map (fun t => (t.v[0], t.v[15])) = some (0, 0) := by decide

/-- B6 -/
theorem test_ldReg : (run 0x8120 (withV [(2, 0x7B)])).map v1 = some (0x7B, 0, 0x0202) := by decide

/-- B7 -/
theorem test_or : (run 0x8121 (withV [(1, 0xF0), (2, 0x0F), (15, 1)])).map v1 = some (0xFF, 1, 0x0202) := by decide

/-- B8 -/
theorem test_and : (run 0x8122 (withV [(1, 0xF0), (2, 0x3C)])).map v1 = some (0x30, 0, 0x0202) := by decide

/-- B9 -/
theorem test_xor : (run 0x8123 (withV [(1, 0xF0), (2, 0x3C)])).map v1 = some (0xCC, 0, 0x0202) := by decide

/-- B16 -/
theorem test_add_old_flag : (run 0x81F4 (withV [(1, 0xFF), (15, 1)])).map v1 = some (0x00, 1, 0x0202) := by decide

/-- B18 -/
theorem test_add_into_flag : (run 0x8F14 (withV [(1, 250), (15, 10)])).map v1 = some (250, 4, 0x0202) := by decide

/-- B20, B21 -/
theorem test_sub : (run 0x8125 (withV [(1, 3), (2, 5)])).map v1 = some (254, 0, 0x0202) ∧
    (run 0x8125 (withV [(1, 7), (2, 7)])).map v1 = some (0, 0, 0x0202) := by decide

/-- B24, B25 -/
theorem test_sub_flag_operand : (run 0x81F5 (withV [(1, 5), (15, 2)])).map v1 = some (4, 1, 0x0202) ∧
    (run 0x8F15 (withV [(1, 3), (15, 9)])).map v1 = some (3, 254, 0x0202) := by decide

/-- B28 -/
theorem test_shr : (run 0x81A6 (withV [(1, 0x05), (10, 0xFF)])).map v1 = some (0x02, 1, 0x0202) := by decide

/-- B31 -/
theorem test_shr_flag : (run 0x8F06 (withV [(15, 3)])).map v1 = some (0, 0, 0x0202) := by decide

/-- B32, B33 -/
theorem test_subn : (run 0x8127 (withV [(1, 3), (2, 5)])).map v1 = some (2, 1, 0x0202) ∧
    (run 0x8127 (withV [(1, 5), (2, 3)])).map v1 = some (254, 0, 0x0202) := by decide

/-- B35, B36 -/
theorem test_subn_flag_operand : (run 0x81F7 (withV [(15, 7)])).map v1 = some (1, 1, 0x0202) ∧
    (run 0x8F17 (withV [(1, 9), (15, 2)])).map v1 = some (9, 8, 0x0202) := by decide

/-- B39 -/
theorem test_shl : (run 0x81BE (withV [(1, 0x80)])).map v1 = some (0x00, 1, 0x0202) := by decide

/-- B40 -/
theorem test_shl_flag : (run 0x8F0E (withV [(15, 0x80)])).map v1 = some (0, 2, 0x0202) := by decide

/-! ## Index register and memory -/

/-- C1 -/
theorem test_ldI : (run 0xA300 State.reset).map State.i = some 0x0300 := by decide

/-- C4, C5 -/
theorem test_addI : (run 0xF21E ((withV [(2, 1)]).setI 0x0FFF)).map indexFlag = some (0x1000, 1) ∧
    (run 0xF21E ((withV [(15, 1)]).setI 0x0FFF)).map indexFlag = some (0x0FFF, 0) := by decide

/-- C7, C8 -/
theorem test_addI_wrap : (run 0xF21E ((withV [(2, 1)]).setI 0xFFFF)).map indexFlag = some (0x0000, 1) ∧
    (run 0xFF1E ((withV [(15, 0x20)]).setI 0x0FF0)).map indexFlag = some (0x1010, 1) := by decide

/-- C10, C12 -/
theorem test_ldF : (run 0xF329 (withV [(3, 0x1A)])).map State.i = some 0x0082 ∧
    (run 0xF329 (withV [(3, 0xFF)])).map State.i = some 0x009B := by decide

/-- S2, C13 -/
theorem test_ldB : (run 0xF033 ((withV [(0, 157)]).setI 0x300)).map (three 0x300) = some ([1, 5, 7], 0x300) ∧
    (run 0xF033 ((withV [(0, 255)]).setI 0x300)).map (three 0x300) = some ([2, 5, 5], 0x300) := by decide

/-- C16, C17 -/
theorem test_ldB_top : (run 0xF033 ((withV [(0, 123)]).setI 0x0FFD)).map (three 0xFFD) = some ([1, 2, 3], 0xFFD) ∧
    (run 0xF033 ((withV [(0, 123)]).setI 0x0FFE)).map stop =
      some (0x0200, .faulted .memoryBounds 0x200 0x1000, true) := by decide

/-- S3 -/
theorem test_storeRegs : (run 0xF355 ((withV [(0, 0x11), (1, 0x22), (2, 0x33), (3, 0x44)]).setI 0x300)).map
    (fun t => (t.readBytes 0x300 5, t.i)) = some ([0x11, 0x22, 0x33, 0x44, 0], 0x304) := by decide

/-- C21 -/
theorem test_storeRegs_bounds : (run 0xFF55 ((withV [(0, 7)]).setI 0x0FF1)).map
    (fun t => (stop t, t.i, t.readByte 0xFF1)) =
      some ((0x0200, .faulted .memoryBounds 0x200 0x1000, true), 0x0FF1, 0) := by decide

/-- C22 -/
theorem test_loadRegs : (run 0xF265 ((withV [(3, 9)]).setI 0x300 |>.writeBytes 0x300 [1, 5, 7])).map
    (fun t => (t.v.toList.take 4, t.i)) = some ([1, 5, 7, 9], 0x303) := by decide

/-- C24 -/
theorem test_loadRegs_bounds : (run 0xF165 ((withV [(0, 7)]).setI 0x0FFF)).map (fun t => (stop t, t.i, t.v[0])) =
    some ((0x0200, .faulted .memoryBounds 0x200 0x1000, true), 0x0FFF, 7) := by decide

/-! ## Display: rows as 64 bits, column 0 leftmost -/

/-- D1 -/
theorem test_cls : (run 0x00E0 ((withV [(15, 1)]).setDisp (Display.clear.set 3 0xF0F0))).map
    (fun t => (t.disp == Display.clear, t.v[15], t.output)) = some (true, 1, [.displayUpdated]) := by decide

/-- D3, with the default FONT: glyph 0 with its corner at (6, 1), rows 1 to 5. -/
theorem test_drw_glyph : (run 0xD015 ((withV [(0, 70), (1, 33)] (State.resetWith defaultFont)).setI 0x050)).map
    (fun t => (t.disp.toList.take 7, t.v[15])) =
      some ([0, 0x03C0000000000000, 0x0240000000000000, 0x0240000000000000, 0x0240000000000000, 0x03C0000000000000, 0], 0) := by
  decide

/-- D10: (63,0) on, sprite 0x03 at column 56. -/
theorem test_drw_collision : (run 0xD011 (((withV [(0, 56)]).setI 0x300 |>.writeBytes 0x300 [0x03]).setDisp
    (Display.clear.set 0 1))).map (fun t => (t.disp[0], t.v[15])) = some (2, 1) := by decide

/-! ## Random, timers, keys -/

/-- E1, E3: V[1] is the byte drawn, masked. -/
theorem test_rnd : (run 0xC10F State.reset).map (fun t => t.v[1]) = some (Config.rnd 0 &&& 0x0F) := rfl

/-- E2 -/
theorem test_rnd_mask0 : (run 0xC100 (withV [(1, 9)])).map (fun t => t.v[1]) = some 0 := by
  show some (Config.rnd 0 &&& 0#8) = some 0#8
  rw [BitVec.and_zero]

/-- E4 -/
theorem test_ldVxDT : (run 0xF207 (State.reset.setDt 0x3C)).map (fun t => (t.v[2], t.dt)) = some (0x3C, 0x3C) := by decide

/-- E5 -/
theorem test_ldDTVx : (run 0xF215 (withV [(2, 10)])).map (fun t => (t.dt, t.st)) = some (10, 0) := by decide

/-- E6 -/
theorem test_ldSTVx : (run 0xF018 (withV [(0, 5)])).map (fun t => (t.dt, t.st)) = some (0, 5) := by decide

/-- E13, E14 -/
theorem test_skp : (run 0xE19E (withV [(1, 5)])).map State.pc =
    some (if Config.keyDown 0 5 = true then 0x0204 else 0x0202) := rfl

/-- E15, E16: skips when the key is up. -/
theorem test_sknp : (run 0xE1A1 (withV [(1, 5)])).map State.pc =
    some (if Config.keyDown 0 5 = true then 0x0202 else 0x0204) := by
  show some (if (!Config.keyDown 0 5) = true then (0x0204 : Word) else 0x0202) = _
  cases Config.keyDown 0 5 <;> rfl

/-- E18 -/
theorem test_ldVxK : (run 0xF30A State.reset).map stop = some (0x0202, .waitKey 3, false) := by decide

/-- E19 -/
theorem test_key : (after { State.reset with status := .waitKey 3, agenda := [.key 0xB] }).map
    (fun t => (t.v[3], stop t)) = some (0x0B, (0x0200, .running, false)) := by decide

/-! ## Engine, ticker, host -/

/-- F5 -/
theorem test_fetch_last_byte : (after (State.reset.setPc 0x0FFF)).map stop =
    some (0x0FFF, .faulted .fetchBounds 0xFFF 0x1000, true) := by decide

/-- F4 -/
theorem test_exhaustion : (after (State.reset.setPc 0x10FE)).map stop = some (0x10FE, .halted, true) := by decide

/-- F8 -/
theorem test_unknown : (run 0x0000 State.reset).map (fun t => (stop t, t.output)) =
    some ((0x0202, .running, false), [.unknownOpcode 0x0000 0x200]) := by decide

/-- F6, F7: no engine step in a final state. -/
theorem test_final : step (State.reset.setStatus .halted) = .fault .halted ∧
    step { State.reset with shutdown := true } = .fault .stopped := ⟨rfl, rfl⟩

/-- R201's codes, and the dump after a fault (R226). -/
theorem test_dump_after_fault : (run 0x00EE State.reset).map (fun t => (t.dump.pc, t.dump.sp, t.dump.status)) =
    some (0x0200, 0, .faulted .stackUnderflow 0x200 0) ∧ Cause.code .stackUnderflow = 2 := by decide

/-- E8, E9 -/
theorem test_tick : (after { State.reset with dt := 255, st := 2, agenda := [.tick] }).map
    (fun t => (t.dt, t.st)) = some (254, 1) ∧
    (after { State.reset with agenda := [.tick] }).map (fun t => (t.dt, t.st)) = some (0, 0) := by decide

/-- S8 -/
theorem test_load : (after { State.reset with agenda := [.load [0xAA, 0xBB, 0xCC]] }).map
    (fun t => (t.readBytes 0x200 4, t.pc)) = some ([0xAA, 0xBB, 0xCC, 0], 0x200) := by decide

/-- R31's default table at the glyphs' places; R28: zero below FONT, at the program, at the top. -/
theorem test_reset_memory : (State.resetWith defaultFont).readBytes 0x050 5 = [0xF0, 0x90, 0x90, 0x90, 0xF0] ∧
    State.reset.readBytes 0x09B 5 = [0xF0, 0x80, 0xF0, 0x80, 0x80] ∧
    [0, 0x04F, 0x0A0, 0x200, 0xFFF].map State.reset.readByte = [0, 0, 0, 0, 0] := by decide

/-- R31: another FONT is read at FONT's place, and zero beside it. -/
theorem test_other_font : [0x04F, 0x050, 0x09F, 0x0A0].map (State.resetWith (Vector.replicate 80 0x81)).readByte =
    [0, 0x81, 0x81, 0] := by decide

/-- S1's first word as `withFetchWord` places it, at the reset `pc`. -/
theorem test_withFetchWord : (State.reset.withFetchWord 16 0x6105).readBytes 0x200 2 = [0x61, 0x05] := by decide

/-! ## Executions without end (R82, R218, R259) -/

/-- `JP 0x200` at 0x200 (A5), with the engine started and both timers 0: every engine and every ticker step leaves it. -/
def spinning : State := { State.reset.withFetchWord 16 0x1200 with started := true }

/-- The engine and the ticker take turns, for ever. -/
def turns : Execution where
  state _ := spinning
  action n := if n % 2 = 0 then .engine else .tick
  request _ := true
  steps n := by by_cases h : n % 2 = 0 <;> simp only [h, if_true, if_false] <;> rfl
  responds _ _ := rfl

/-- A host that never requests a step: the ticker steps alone, for ever (R228, row 3). -/
def idleHost : Execution where
  state _ := spinning
  action _ := .tick
  request _ := false
  steps _ := rfl
  responds _ h := by cases h

/-- Fair executions exist, and in one both agents step infinitely often: the premise of fairness shuts nothing out. -/
theorem test_fair_execution : turns.fair ∧ ∀ n, Execution.eventually n (fun m => turns.action m = .tick) := by
  have ht (n : Nat) : Execution.eventually n (fun m => turns.action m = .tick) :=
    ⟨2 * n + 1, by omega, by simp [turns]⟩
  exact ⟨⟨fun n _ => ht n, fun n _ => ⟨2 * n, by omega, by simp [turns]⟩⟩, ht⟩

/-- "A host that never requests a step ... is allowed" (R259): it is fair, and the ticker goes on. -/
theorem test_idle_host_is_fair : idleHost.fair :=
  ⟨fun n _ => ⟨n, Nat.le_refl n, rfl⟩, fun n h => absurd (h n (Nat.le_refl n)).1 (by simp [idleHost])⟩

/-! ## Witnesses: for every obligation with hypotheses, states and operands that meet them

The name after `witness_` is the obligation's; each clause has its own witness, at a boundary value where it has a range. -/

theorem witness_EncodingADecodedWordGivesTheWord : decodeWord 0xFA65#16 = some (.loadRegs 10) := by decide

theorem witness_DecodedWordSelectsExactlyItsTableRow :
    decodeWord 0x81A6#16 = some (.shr 1 10) ∧ decodeWord 0x5121#16 = none := by decide

theorem witness_FetchReadsTwoBytesHighByteFirst : (State.reset.setPc 0xFFE).pc.toNat + 1 < 0x1000 := by decide

/-- The last word of Memory, with the engine asked by an empty agenda and by the action `engine`. -/
theorem witness_StepRunsTheDecodedInstruction :
    let s := (State.reset.setPc 0xFFE).writeBytes 0xFFE [0x60, 0x07]
    s.engineNext [] ∧ { s with agenda := [.engine, .tick] }.engineNext [.tick] ∧ s.canRun ∧ s.pc.toNat + 1 < 0x1000 ∧
    decodeWord (wordOfBytes (s.mem.read s.pc.toNat) (s.mem.read (s.pc.toNat + 1))) = some (.ldImm 0 7) :=
  ⟨.inl ⟨rfl, rfl⟩, .inr rfl, ⟨rfl, rfl⟩, by decide, by decide⟩

theorem witness_WithFetchWordRunsTheTableWord :
    Memory.wf (State.reset.writeBytes 0x300 [1, 2]).mem = true ∧ decodeTableWord 16 0xD7A5 = some (.drw 7 10 5) := by decide

theorem witness_UnknownOpcodeIsAReportedNoOp :
    State.reset.engineNext [] ∧ State.reset.canRun ∧ State.reset.pc.toNat + 1 < 0x1000 ∧
    0x0000#16 = wordOfBytes (State.reset.mem.read State.reset.pc.toNat) (State.reset.mem.read (State.reset.pc.toNat + 1)) ∧
    decodeWord 0x0000#16 = none :=
  ⟨.inl ⟨rfl, rfl⟩, ⟨rfl, rfl⟩, by decide, by decide, by decide⟩

theorem witness_FetchBeyondMemoryHaltsOrFaults :
    (State.reset.setPc 0x1000).engineNext [] ∧ (State.reset.setPc 0x1000).canRun ∧
    0x1000 ≤ (State.reset.setPc 0x1000).pc.toNat ∧
    (State.reset.setPc 0xFFF).engineNext [] ∧ (State.reset.setPc 0xFFF).canRun ∧
    (State.reset.setPc 0xFFF).pc.toNat = 0xFFF :=
  ⟨.inl ⟨rfl, rfl⟩, ⟨rfl, rfl⟩, by decide, .inl ⟨rfl, rfl⟩, ⟨rfl, rfl⟩, by decide⟩

theorem witness_FinalStatesTakeNoEngineStep :
    (State.reset.setStatus .halted).engineNext [] ∧ (State.reset.setStatus .halted).status = .halted ∧
    (State.reset.raise .stackUnderflow 0).engineNext [] ∧
    (State.reset.raise .stackUnderflow 0).status = .faulted .stackUnderflow 0x1FE 0 ∧
    (shutdownStep State.reset).engineNext [] ∧ (shutdownStep State.reset).status = .running ∧
    (shutdownStep State.reset).shutdown = true :=
  ⟨.inl ⟨rfl, rfl⟩, rfl, .inl ⟨rfl, rfl⟩, by decide, .inl ⟨rfl, rfl⟩, rfl, rfl⟩

/-- An RET with an empty stack at 0x200. -/
theorem witness_FaultingStepIsPrecise :
    let s := State.reset.withFetchWord 16 0x00EE
    s.engineNext [] ∧ s.canRun ∧
      ∃ t, step s = .next t ∧ t.status = .faulted .stackUnderflow 0x200 0 :=
  ⟨.inl ⟨rfl, rfl⟩, ⟨rfl, rfl⟩, _, rfl, by decide⟩

/-- One witness per fault and instruction, each in the state a handler sees. -/
theorem witness_EachFaultComesFromItsInstructions :
    State.reset.status = .running ∧
    (∃ t, exec (.call 0x300) { State.reset with sp := 16 } = .next t ∧
      t.status = .faulted .stackOverflow 0x1FE 0x200) ∧
    (∃ t, exec .ret State.reset = .next t ∧ t.status = .faulted .stackUnderflow 0x1FE 0) ∧
    (∃ t, exec (.ldB 0) (State.reset.setI 0x0FFE) = .next t ∧ t.status = .faulted .memoryBounds 0x1FE 0x1000) ∧
    (∃ t, exec (.storeRegs 15) (State.reset.setI 0x0FF1) = .next t ∧ t.status = .faulted .memoryBounds 0x1FE 0x1000) ∧
    (∃ t, exec (.loadRegs 0) (State.reset.setI 0x1000) = .next t ∧ t.status = .faulted .memoryBounds 0x1FE 0x1000) ∧
    (∃ t, exec (.drw 0 0 1) (State.reset.setI 0x1001) = .next t ∧ t.status = .faulted .memoryBounds 0x1FE 0x1001) :=
  ⟨rfl, ⟨_, rfl, by decide⟩, ⟨_, rfl, by decide⟩, ⟨_, rfl, by decide⟩, ⟨_, rfl, by decide⟩, ⟨_, rfl, by decide⟩,
    ⟨_, rfl, by decide⟩⟩

theorem witness_CallPushesTheAdvancedPc : { State.reset with sp := 15 }.sp.val < 16 := by decide

theorem witness_ReturnGoesToTheNewestEntry :
    { State.reset with sp := 1 }.sp.val = (0 : Fin 16).val + 1 ∧
    { State.reset with sp := 16 }.sp.val = (15 : Fin 16).val + 1 := by decide

theorem witness_StackMisuseFaults : { State.reset with sp := 16 }.sp = 16 ∧ State.reset.sp = 0 := by decide

theorem witness_CallThenReturnResumesAfterTheCall : { State.reset with sp := 15 }.sp.val < 16 := by decide

/-- The sum 255 (no carry), for a destination other than VF and for VF. -/
theorem witness_AddRegistersGivesSumAndCarry :
    let s := withV [(1, 0x80), (2, 0x7F)]
    255 = (s.v[1]).toNat + (s.v[2]).toNat ∧ (1 : Reg) ≠ 15 ∧ 256 = (withV [(1, 1), (15, 0xFF)]).v[15].toNat + 1 := by decide

/-- The four clauses: neither operand VF (equal operands), Y = F, X = F, both. -/
theorem witness_SubtractionsGiveDifferenceAndFlag :
    let s := withV [(1, 7), (2, 7)]
    7 = (s.v[1]).toNat ∧ 7 = (s.v[2]).toNat ∧ 0 = (s.v[15]).toNat ∧ (1 : Reg) ≠ 15 ∧ (2 : Reg) ≠ 15 := by decide

theorem witness_ShiftsActInPlaceAndIgnoreY :
    0x80 = ((withV [(1, 0x80)]).v[1]).toNat ∧ (1 : Reg) ≠ 15 ∧ 0xFF = ((withV [(15, 0xFF)]).v[15]).toNat := by decide

theorem witness_AddToIndexSetsIAndFlag :
    let s := (withV [(2, 1)]).setI 0xFFFF
    65536 = s.i.toNat + (s.v[2]).toNat := by decide

theorem witness_BcdStoresThreeDigits :
    (State.reset.setI 0xFFD).i.toNat + 2 ≤ 0xFFF ∧ Memory.wf (State.reset.setI 0xFFD).mem = true := by decide

theorem witness_StoreRegistersWritesTheRangeAndAdvancesI :
    (State.reset.setI 0xFF0).i.toNat + (15 : Reg).val ≤ 0xFFF ∧ Memory.wf (State.reset.setI 0xFF0).mem = true := by decide

theorem witness_LoadRegistersReadsTheRangeAndAdvancesI :
    (State.reset.setI 0xFF0).i.toNat + (15 : Reg).val ≤ 0xFFF := by decide

/-- FX33 from 0xFFE on, FX55 and FX65 with X = F from 0xFF1 on, DXYN from 0xFFF on with two rows. -/
theorem witness_AccessBeyondMemoryFaults :
    0xFFF < (State.reset.setI 0xFFE).i.toNat + 2 ∧ 0xFFF < (State.reset.setI 0xFF1).i.toNat + (15 : Reg).val ∧
    0 < min (2#4).toNat (32 - (State.reset.v[1]).toNat % 32) ∧
    0xFFF < (State.reset.setI 0xFFF).i.toNat + min (2#4).toNat (32 - (State.reset.v[1]).toNat % 32) - 1 := by decide

theorem witness_LoadRegistersUndoesStoreRegisters :
    Memory.wf (State.reset.setI 0xFF0).mem = true ∧ (State.reset.setI 0xFF0).i.toNat + (15 : Reg).val ≤ 0xFFF := by decide

/-- The store goes to the word at 0xFFE, the last one of Memory. -/
theorem witness_StoreIsSeenByTheNextFetch :
    let s := (State.reset.setPc 0xFFE).setI 0xFFE
    Memory.wf s.mem = true ∧ (1 : Reg) ≤ 1 ∧ s.i = s.pc ∧ s.i.toNat + (1 : Reg).val ≤ 0xFFF := by decide

/-- One row at the last byte of Memory in the last row of the grid; and no row at all, with I anywhere. -/
theorem witness_DrawXorsTheSpriteAndReportsCollision :
    let s := (withV [(0, 63), (1, 31)]).setI 0xFFF
    63 = (s.v[0]).toNat % 64 ∧ 31 = (s.v[1]).toNat % 32 ∧ 1 = min (15#4).toNat (32 - 31) ∧ s.i.toNat + 1 - 1 ≤ 0xFFF ∧
    0 = min (0#4).toNat (32 - 31) := by decide

theorem witness_DrawingTwiceRestoresTheDisplay :
    let s := (withV [(0, 62), (1, 31)]).setI 0xFFF
    (0 : Reg) ≠ 15 ∧ (1 : Reg) ≠ 15 ∧ 62 = (s.v[0]).toNat % 64 ∧ 31 = (s.v[1]).toNat % 32 ∧
    1 = min (2#4).toNat (32 - 31) ∧ s.i.toNat + 1 - 1 ≤ 0xFFF := by decide

/-- The key comes by the action `key`; the engine is asked to step while it waits; with shutdown requested too. -/
theorem witness_KeyWaitEndsWithAKey :
    { State.reset with status := .waitKey 3, shutdown := true }.status = .waitKey 3 ∧
    { State.reset with status := .waitKey 3, agenda := [.key 0xB] }.agenda = .key 0xB :: [] ∧
    { State.reset with status := .waitKey 3 }.engineNext [] :=
  ⟨rfl, rfl, .inl ⟨rfl, rfl⟩⟩

theorem witness_TickerStepDecrementsBothTimers :
    { State.reset with agenda := [.tick] }.agenda = .tick :: [] ∧ { State.reset with agenda := [.tick] }.shutdown = false ∧
    { State.reset with agenda := [.tick], shutdown := true }.shutdown = true := by decide

theorem witness_TicksCountDownToZeroAndStay :
    { State.reset with dt := 10, agenda := List.replicate 11 .tick }.agenda = List.replicate 11 .tick ++ [] ∧
    { State.reset with dt := 10, agenda := List.replicate 11 .tick }.shutdown = false := by decide

theorem witness_TickerCommutesWithOtherInstructions : Instr.usesTimer (.drw 0 1 5) = false := by decide

theorem witness_NoInstructionReadsTheSoundTimer :
    (∀ x, Instr.ldDTVx 0 ≠ .ldSTVx x) ∧ (∃ x, Instr.ldSTVx 15 = .ldSTVx x) := ⟨nofun, 15, rfl⟩

theorem witness_ShutdownStopsEngineAndTicker :
    { State.reset with agenda := [.shutdown] }.agenda = .shutdown :: [] ∧
    { State.reset with agenda := [.shutdown] }.status = .running := ⟨rfl, rfl⟩

/-- After the first engine step; one byte too many; exactly 3584 bytes. -/
theorem witness_ProgramLoadPlacesTheBytes :
    { State.reset with started := true, agenda := [.load [0xAA]] }.started = true ∧ State.reset.started = false ∧
    3584 < (List.replicate 3585 (0xAA : Byte)).length ∧ (List.replicate 3584 (0xAA : Byte)).length ≤ 3584 ∧
    Memory.wf State.reset.mem = true := by
  rw [List.length_replicate, List.length_replicate]
  decide

theorem witness_ResetGivesEveryElementItsValue :
    { State.reset with agenda := [.reset] }.agenda = .reset :: [] ∧ { State.reset with agenda := [.reset] }.shutdown = false ∧
    { State.reset with agenda := [.reset], shutdown := true }.shutdown = true := by decide

/-- Reset meets the invariant, and so does the state after a BNNN that goes as far as `pc` can go. -/
theorem witness_EveryStepKeepsTheInvariant :
    let s := (withV [(0, 0xFF)]).withFetchWord 16 0xBFFF
    s.Inv ∧ ∃ t, step s = .next t ∧ t.pc = 0x10FE :=
  ⟨⟨by decide, by decide, by decide, by decide, nofun⟩, _, rfl, by decide⟩

/-- A key that ends a wait after the shutdown request; a ticker step in Halted. -/
theorem witness_OnlyResetLeavesAFinalState :
    let s : State := { State.reset with status := .waitKey 3, shutdown := true, agenda := [.key 4] }
    let h : State := { State.reset with status := .halted, agenda := [.tick] }
    (∃ t, step s = .next t) ∧ (¬ ∃ rest, s.agenda = .reset :: rest) ∧ s.shutdown = true ∧
    (∃ t, step h = .next t) ∧ (¬ ∃ rest, h.agenda = .reset :: rest) ∧ h.status.isFinal = true :=
  ⟨⟨_, rfl⟩, by simp, rfl, ⟨_, rfl⟩, by simp, rfl⟩

/-- DXYN: no clause but the display's is waived; the other clauses have their hypotheses met by CLS and ANNN. -/
theorem witness_EachStateElementHasItsWriters :
    State.reset.status = .running ∧ (∃ t, exec (.drw 0 1 5) State.reset = .next t ∧ t.status.isFinal = false) ∧
    Instr.writesI (.drw 0 1 5) = false ∧ Instr.usesStack (.drw 0 1 5) = false ∧ Instr.writesMem (.drw 0 1 5) = false ∧
    Instr.writesPc (.drw 0 1 5) = false ∧ Instr.writesDisp (.ldI 0x300) = false ∧
    (∃ t, exec (.ldI 0x300) State.reset = .next t ∧ t.status.isFinal = false) ∧ (∀ x, Instr.ldI 0x300 ≠ .ldDTVx x) ∧
    (∀ x, Instr.ldI 0x300 ≠ .ldSTVx x) ∧ (∀ x, Instr.ldI 0x300 ≠ .ldVxK x) :=
  ⟨rfl, ⟨_, rfl, by decide⟩, rfl, rfl, rfl, rfl, rfl, ⟨_, rfl, by decide⟩, nofun, nofun, nofun⟩

theorem witness_RegistersChangeOnlyWhereNamed :
    (∃ t, exec (.orReg 1 2) State.reset = .next t) ∧ Instr.writesReg (.orReg 1 2) 15 = false ∧
    (∃ t, exec (.loadRegs 14) State.reset = .next t) ∧ Instr.writesReg (.loadRegs 14) 15 = false :=
  ⟨⟨_, rfl⟩, by decide, ⟨_, rfl⟩, by decide⟩

theorem witness_CanonicalMemoriesAreEqualWhenTheyReadEqual :
    let m := Memory.writeList (Memory.blank defaultFont) 0x300 [1, 2]
    let n := Memory.write (Memory.write (Memory.blank defaultFont) 0x301 2) 0x300 1
    m.font = n.font ∧ m.wf = true ∧ n.wf = true ∧ ∀ a, m.read a = n.read a := by
  refine ⟨rfl, by decide, by decide, fun a => ?_⟩
  rw [show Memory.writeList (Memory.blank defaultFont) 0x300 [1, 2] =
    Memory.write (Memory.write (Memory.blank defaultFont) 0x301 2) 0x300 1 by decide]

/-- A reset of a machine built with another FONT: the case where a step could put a table of its own there. -/
theorem witness_AnyFontIsTheMachinesAndStays :
    let s : State := { State.resetWith (Vector.replicate 80 0x81) with shutdown := true, agenda := [.reset] }
    (∃ t, step s = .next t) ∧ ∃ t, step ((State.resetWith (Vector.replicate 80 0x81)).withFetchWord 16 0xF055) = .next t :=
  ⟨⟨_, rfl⟩, _, rfl⟩

end Sys2Proof.Tests
end

section
/-! Memory (spec/20_memory.md): what the fetch reads. -/

namespace Sys2Proof

/-! ### The two bytes of a word (R42) -/

@[simp] theorem hiByte_wordOfBytes (hi lo : Byte) : hiByte (wordOfBytes hi lo) = hi := by
  apply BitVec.eq_of_toNat_eq
  rw [toNat_hiByte, toNat_wordOfBytes]
  omega

@[simp] theorem loByte_wordOfBytes (hi lo : Byte) : loByte (wordOfBytes hi lo) = lo := by
  apply BitVec.eq_of_toNat_eq
  rw [toNat_loByte, toNat_wordOfBytes]
  omega

end Sys2Proof

namespace Sys2Proof.Machine

/-- Settles O7: below the last byte the fetch finds the word of the two bytes, whose halves are those bytes. -/
theorem fetchReadsTwoBytesHighByteFirst : Obligations.FetchReadsTwoBytesHighByteFirst := by
  unfold Obligations.FetchReadsTwoBytesHighByteFirst
  intro s h
  exact ⟨_, fetch_of_lt h, hiByte_wordOfBytes _ _, loByte_wordOfBytes _ _⟩

end Sys2Proof.Machine
end

section
/-! Encoding (spec/30_encoding.md): the six fields of a word (R61). -/

namespace Sys2Proof

/-! ### A field bit by bit (R61) -/

theorem getLsbD_extractLsb'_of_lt {start len k : Nat} (w : Word) (hk : k < len) :
    (w.extractLsb' start len).getLsbD k = w.getLsbD (start + k) := by
  rw [BitVec.getLsbD_extractLsb', decide_eq_true hk, Bool.true_and]

/-- The fields that begin at bit 0. -/
theorem getLsbD_extractLsb'_zero_of_lt {len k : Nat} (w : Word) (hk : k < len) :
    (w.extractLsb' 0 len).getLsbD k = w.getLsbD k := by
  rw [getLsbD_extractLsb'_of_lt w hk, Nat.zero_add]

/-! ### The overlaps of the fields (R61): adjacent slices joined are one slice -/

theorem nnField_eq_append (w : Word) : nnField w = yField w ++ nField w :=
  (BitVec.extractLsb'_append_extractLsb'_eq_extractLsb' (Nat.zero_add 4).symm).symm

theorem nnnField_eq_append (w : Word) : nnnField w = xField w ++ yField w ++ nField w := by
  have hxy : xField w ++ yField w = w.extractLsb' 4 8 :=
    BitVec.extractLsb'_append_extractLsb'_eq_extractLsb' rfl
  rw [hxy]
  exact (BitVec.extractLsb'_append_extractLsb'_eq_extractLsb' (Nat.zero_add 4).symm).symm

end Sys2Proof

namespace Sys2Proof.Machine

/-- Settles O1: the table's slices bit by bit, and the two overlaps of R61. -/
theorem wordFieldsAreTheirBitSlices : Obligations.WordFieldsAreTheirBitSlices := by
  unfold Obligations.WordFieldsAreTheirBitSlices
  intro w
  exact ⟨fun _ hk => getLsbD_extractLsb'_of_lt w hk, fun _ hk => getLsbD_extractLsb'_of_lt w hk,
    fun _ hk => getLsbD_extractLsb'_of_lt w hk, fun _ hk => getLsbD_extractLsb'_zero_of_lt w hk,
    fun _ hk => getLsbD_extractLsb'_zero_of_lt w hk, fun _ hk => getLsbD_extractLsb'_zero_of_lt w hk,
    nnField_eq_append w, nnnField_eq_append w⟩

end Sys2Proof.Machine
end

section
/-! Register load and logic (spec/42_alu.md R120 to R125): the words of these instructions and the one register each sets. -/

namespace Sys2Proof

/-! ### The word of an instruction, as a number (R62, R64) -/

/-- Decoding undoes encoding. -/
theorem decodeWord_encode (i : Instr) : decodeWord (encode i) = some i := by
  cases i with
  | cls | ret => rfl
  | jp | call | ldI | jpV0 => simp [encode, decodeWord]
  | seImm | sneImm | ldImm | addImm | rnd => simp [encode, decodeWord]
  | seReg | sneReg | drw => simp [encode, decodeWord]
  | ldReg | orReg | andReg | xorReg | addReg | subReg | shr | subnReg | shl => simp [encode, decodeWord, decodeFamily8]
  | skp | sknp => simp [encode, decodeWord, decodeFamilyE]
  | ldVxDT | ldVxK | ldDTVx | ldSTVx | addI | ldF | ldB | storeRegs | loadRegs =>
    simp [encode, decodeWord, decodeFamilyF]

theorem decodeWord_ofNat {n : Nat} {i : Instr} (h : (encode i).toNat = n) :
    decodeWord (BitVec.ofNat 16 n) = some i := by
  rw [← h, BitVec.ofNat_toNat, BitVec.setWidth_eq, decodeWord_encode]

/-- The nibbles that select the instruction first, then the two registers. -/
theorem toNat_wordXYN_registers_last (op : Nibble) (x y : Reg) (n : Nibble) :
    (wordXYN op x y n).toNat = (op.toNat * 4096 + n.toNat) + x.val * 256 + y.val * 16 := by
  rw [toNat_wordXYN]
  omega

end Sys2Proof

namespace Sys2Proof.Machine

theorem toNat_sumByte (a b : Byte) : (sumByte a b).toNat = (a.toNat + b.toNat) % 256 :=
  BitVec.toNat_ofNat _ _

/-! ### What setting one register does -/

namespace State

theorem getElem_setReg_self (s : State) (r : Reg) (b : Byte) : (s.setReg r b).v[r.val] = b :=
  Vector.getElem_set_self r.isLt

/-- The frame of `setReg`: the new state is the old one but for what it holds in that register. -/
theorem setReg_eq_set_getElem (s : State) (r : Reg) (b : Byte) :
    s.setReg r b = { s with v := s.v.set r.val (s.setReg r b).v[r.val] } := by
  rw [getElem_setReg_self, setReg]

end State

/-! ### The register each instruction sets -/

theorem exec_ldImm (x : Reg) (nn : Byte) (s : State) : exec (.ldImm x nn) s = .next (s.setReg x nn) := rfl

theorem exec_addImm (x : Reg) (nn : Byte) (s : State) :
    exec (.addImm x nn) s = .next (s.setReg x (sumByte (s.reg x) nn)) := rfl

theorem exec_ldReg (x y : Reg) (s : State) : exec (.ldReg x y) s = .next (s.setReg x (s.reg y)) := rfl

theorem exec_orReg (x y : Reg) (s : State) : exec (.orReg x y) s = .next (s.setReg x (s.reg x ||| s.reg y)) := rfl

theorem exec_andReg (x y : Reg) (s : State) : exec (.andReg x y) s = .next (s.setReg x (s.reg x &&& s.reg y)) := rfl

theorem exec_xorReg (x y : Reg) (s : State) : exec (.xorReg x y) s = .next (s.setReg x (s.reg x ^^^ s.reg y)) := rfl

/-! ### The statements -/

/-- Settles O21: the word is the encoder's, and `setReg` is the load. -/
theorem loadImmediateSetsTheRegister : Obligations.LoadImmediateSetsTheRegister := by
  unfold Obligations.LoadImmediateSetsTheRegister
  exact fun x nn => ⟨decodeWord_ofNat (toNat_wordXNN 0x6 x nn), exec_ldImm x nn⟩

/-- Settles O22: the byte set is `sumByte`, the sum modulo 256, and `setReg` leaves VF alone. -/
theorem addImmediateWrapsWithoutFlag : Obligations.AddImmediateWrapsWithoutFlag := by
  unfold Obligations.AddImmediateWrapsWithoutFlag
  refine fun x nn => ⟨decodeWord_ofNat (toNat_wordXNN 0x7 x nn), fun s =>
    ⟨_, exec_addImm x nn s, s.setReg_eq_set_getElem x _, ?_⟩⟩
  rw [State.getElem_setReg_self, toNat_sumByte, State.reg_eq]

/-- Settles O23: the word is the encoder's, and `setReg` is the copy. -/
theorem loadRegisterCopies : Obligations.LoadRegisterCopies := by
  unfold Obligations.LoadRegisterCopies
  exact fun x y => ⟨decodeWord_ofNat (toNat_wordXYN_registers_last 0x8 x y 0x0), exec_ldReg x y⟩

/-- Settles O24: the byte set is the OR of the two registers, read bit by bit. -/
theorem orActsBitByBit : Obligations.OrActsBitByBit := by
  unfold Obligations.OrActsBitByBit
  refine fun x y => ⟨decodeWord_ofNat (toNat_wordXYN_registers_last 0x8 x y 0x1), fun s =>
    ⟨_, exec_orReg x y s, s.setReg_eq_set_getElem x _, fun k _ => ?_⟩⟩
  rw [State.getElem_setReg_self, BitVec.getLsbD_or, State.reg_eq, State.reg_eq]

/-- Settles O25: the byte set is the AND of the two registers, read bit by bit. -/
theorem andActsBitByBit : Obligations.AndActsBitByBit := by
  unfold Obligations.AndActsBitByBit
  refine fun x y => ⟨decodeWord_ofNat (toNat_wordXYN_registers_last 0x8 x y 0x2), fun s =>
    ⟨_, exec_andReg x y s, s.setReg_eq_set_getElem x _, fun k _ => ?_⟩⟩
  rw [State.getElem_setReg_self, BitVec.getLsbD_and, State.reg_eq, State.reg_eq]

/-- Settles O26: the byte set is the exclusive OR of the two registers, which clears a register paired with itself. -/
theorem xorActsBitByBit : Obligations.XorActsBitByBit := by
  unfold Obligations.XorActsBitByBit
  refine fun x y => ⟨decodeWord_ofNat (toNat_wordXYN_registers_last 0x8 x y 0x3), fun s =>
    ⟨_, exec_xorReg x y s, s.setReg_eq_set_getElem x _, ?bits, ?clears⟩⟩
  case bits =>
    intro k _
    rw [State.getElem_setReg_self, BitVec.getLsbD_xor, State.reg_eq, State.reg_eq]
  case clears =>
    rintro rfl
    exact (s.getElem_setReg_self x _).trans BitVec.xor_self

end Sys2Proof.Machine
end

section
/-! Index register (spec/43_index_memory.md R140, R142): the words of ANNN and FX29, and what they set `I` to. -/

namespace Sys2Proof

/-- The nibble and byte that select the instruction first, then the register. -/
theorem toNat_wordXNN_register_last (op : Nibble) (x : Reg) (nn : Byte) :
    (wordXNN op x nn).toNat = (op.toNat * 4096 + nn.toNat) + x.val * 256 := by
  rw [toNat_wordXNN]
  omega

end Sys2Proof

namespace Sys2Proof.Machine

/-! ### The two addresses, as numbers -/

theorem absolute_eq_ofNat (nnn : Addr12) : absolute nnn = BitVec.ofNat 16 nnn.toNat :=
  (BitVec.ofNat_toNat 16 nnn).symm

/-- The mask of R142 keeps the low nibble. -/
theorem toNat_and_0F (a : Byte) : (a &&& 0x0F).toNat = a.toNat % 16 :=
  (BitVec.toNat_and a 0x0F).trans (Nat.and_two_pow_sub_one_eq_mod a.toNat 4)

/-- The address of a glyph does not wrap: it is at most 0x09B. -/
theorem toNat_glyphAddress (a : Byte) : (glyphAddress a).toNat = 0x050 + a.toNat % 16 * 5 := by
  rw [glyphAddress, Config.fontBase, toNat_and_0F, BitVec.toNat_ofNat]
  exact Nat.mod_eq_of_lt (by omega)

/-! ### What each instruction sets `I` to -/

theorem exec_ldI (nnn : Addr12) (s : State) : exec (.ldI nnn) s = .next (s.setI (absolute nnn)) := rfl

theorem exec_ldF (x : Reg) (s : State) : exec (.ldF x) s = .next (s.setI (glyphAddress (s.reg x))) := rfl

/-! ### The statements -/

/-- Settles O30: the word is the encoder's, and `setI` puts the zero-extended NNN in `I`. -/
theorem loadIndexSetsI : Obligations.LoadIndexSetsI := by
  unfold Obligations.LoadIndexSetsI
  refine fun nnn => ⟨decodeWord_ofNat (toNat_wordNNN 0xA nnn), fun s => ?_⟩
  rw [exec_ldI, absolute_eq_ofNat, State.setI]

/-- Settles O32: the address set is `glyphAddress`, whose number lies in the range because a low nibble is at most 15. -/
theorem fontAddressComesFromTheLowNibble : Obligations.FontAddressComesFromTheLowNibble := by
  unfold Obligations.FontAddressComesFromTheLowNibble
  refine fun x => ⟨decodeWord_ofNat (toNat_wordXNN_register_last 0xF x 0x29), fun s =>
    ⟨_, exec_ldF x s, rfl, ?_⟩⟩
  rw [State.setI_i, toNat_glyphAddress, State.reg_eq]
  exact ⟨rfl, by omega, by omega⟩

end Sys2Proof.Machine
end

section
/-! Display (spec/44_display.md R160): the word 00E0 clears the grid. -/

namespace Sys2Proof.Machine

/-! ### What CLS does -/

theorem exec_cls (s : State) : exec .cls s = .next ((s.setDisp Display.clear).emit .displayUpdated) := rfl

/-- A cleared display shows no pixel, whatever is emitted with it. -/
@[simp] theorem State.grid_emit_setDisp_clear (s : State) (e : Output) (y x : Nat) :
    ((s.setDisp Display.clear).emit e).grid y x = false :=
  pixel_clear y x

/-! ### The statement -/

/-- Settles O39: the word is the encoder's, and the display set is `Display.clear`, whose pixels are all off. -/
theorem clearTurnsEveryPixelOff : Obligations.ClearTurnsEveryPixelOff := by
  unfold Obligations.ClearTurnsEveryPixelOff
  exact ⟨decodeWord_encode .cls, fun s =>
    ⟨_, exec_cls s, fun y _ x _ => s.grid_emit_setDisp_clear .displayUpdated y x, rfl⟩⟩

end Sys2Proof.Machine
end

section
/-! Decoding (spec/30_encoding.md sections 1 to 3): the round trip, the unknown words, the opcode table. -/

namespace Sys2Proof

/-! ### Decoding undoes encoding, on bytes and on words -/

theorem decodeBytes_of_decodeWord {hi lo : Byte} {i : Instr} (rest : List Byte)
    (h : decodeWord (wordOfBytes hi lo) = some i) : decodeBytes (hi :: lo :: rest) = .ok (i, rest) := by
  rw [decodeBytes, h]

theorem decodeBytes_encodeBytes_append (i : Instr) (rest : List Byte) :
    decodeBytes (encodeBytes i ++ rest) = .ok (i, rest) :=
  decodeBytes_of_decodeWord rest (by rw [wordOfBytes_hiByte_loByte, decodeWord_encode])

/-! ### The value of a field, as a number -/

theorem opField_eq_iff {w : Word} {op : Nibble} : opField w = op ↔ w.toNat / 4096 = op.toNat := by
  rw [← BitVec.toNat_inj, toNat_opField]

theorem nField_eq_iff {w : Word} {n : Nibble} : nField w = n ↔ w.toNat % 16 = n.toNat := by
  rw [← BitVec.toNat_inj, toNat_nField]

theorem nnField_eq_iff {w : Word} {nn : Byte} : nnField w = nn ↔ w.toNat % 256 = nn.toNat := by
  rw [← BitVec.toNat_inj, toNat_nnField]

/-! ### Encoding undoes decoding: a word is one of the encoder's shapes, filled with its own fields -/

theorem encode_of_decodeFamily0 {w : Word} {i : Instr} (h : decodeFamily0 w = some i) : encode i = w := by
  rw [decodeFamily0] at h
  split at h
  case isTrue hw => cases h; exact hw.symm
  case isFalse =>
    split at h
    case isTrue hw => cases h; exact hw.symm
    case isFalse => cases h

theorem wordXYN_eq {w : Word} {op n : Nibble} (hop : opField w = op) (hn : nField w = n) :
    wordXYN op (xReg w) (yReg w) n = w := by
  rw [← hop, ← hn, wordXYN_fields]

theorem wordXNN_eq {w : Word} {op : Nibble} {nn : Byte} (hop : opField w = op) (hnn : nnField w = nn) :
    wordXNN op (xReg w) nn = w := by
  rw [← hop, ← hnn, wordXNN_fields]

theorem wordNNN_eq {w : Word} {op : Nibble} (hop : opField w = op) : wordNNN op (nnnField w) = w := by
  rw [← hop, wordNNN_fields]

theorem encode_of_decodeFamily8 {w : Word} {i : Instr} (hop : opField w = 0x8) (h : decodeFamily8 w = some i) :
    encode i = w := by
  unfold decodeFamily8 at h
  split at h
  case h_10 => cases h
  all_goals
    cases h
    exact wordXYN_eq hop ‹_›

theorem encode_of_decodeFamilyE {w : Word} {i : Instr} (hop : opField w = 0xE) (h : decodeFamilyE w = some i) :
    encode i = w := by
  unfold decodeFamilyE at h
  split at h
  case h_3 => cases h
  all_goals
    cases h
    exact wordXNN_eq hop ‹_›

theorem encode_of_decodeFamilyF {w : Word} {i : Instr} (hop : opField w = 0xF) (h : decodeFamilyF w = some i) :
    encode i = w := by
  unfold decodeFamilyF at h
  split at h
  case h_10 => cases h
  all_goals
    cases h
    exact wordXNN_eq hop ‹_›

theorem encode_of_decodeWord {w : Word} {i : Instr} (h : decodeWord w = some i) : encode i = w := by
  unfold decodeWord at h
  split at h
  case h_1 => exact encode_of_decodeFamily0 h
  case h_2 | h_3 | h_11 | h_12 => cases h; exact wordNNN_eq ‹_›
  case h_4 | h_5 | h_7 | h_8 | h_13 => cases h; exact wordXNN_eq ‹_› rfl
  case h_6 | h_10 =>
    split at h
    case isTrue hn => cases h; exact wordXYN_eq ‹_› hn
    case isFalse => cases h
  case h_9 hop => exact encode_of_decodeFamily8 hop h
  case h_14 => cases h; exact wordXYN_eq ‹_› rfl
  case h_15 hop => exact encode_of_decodeFamilyE hop h
  case h_16 =>
    have hop : opField w = 0xF := by
      simp [opField_eq_iff] at *
      omega
    exact encode_of_decodeFamilyF hop h

/-! ### The unknown words -/

theorem decodeFamily0_eq_none_iff (w : Word) : decodeFamily0 w = none ↔ w.toNat ≠ 0x00E0 ∧ w.toNat ≠ 0x00EE := by
  unfold decodeFamily0
  split
  case isTrue h => simp [h]
  case isFalse => split <;> simp_all [← BitVec.toNat_inj]

theorem decodeFamily8_eq_none_iff (w : Word) :
    decodeFamily8 w = none ↔ w.toNat % 16 ∈ [0x8, 0x9, 0xA, 0xB, 0xC, 0xD, 0xF] := by
  have hlt : w.toNat % 16 < 16 := Nat.mod_lt _ (by decide)
  unfold decodeFamily8
  split
  case h_10 => simp [nField_eq_iff] at *; omega
  all_goals simp [nField_eq_iff.mp ‹_›]

theorem decodeFamilyE_eq_none_iff (w : Word) : decodeFamilyE w = none ↔ w.toNat % 256 ∉ [0x9E, 0xA1] := by
  unfold decodeFamilyE
  split
  case h_3 => simp [nnField_eq_iff] at *; omega
  all_goals simp [nnField_eq_iff.mp ‹_›]

theorem decodeFamilyF_eq_none_iff (w : Word) :
    decodeFamilyF w = none ↔ w.toNat % 256 ∉ [0x07, 0x0A, 0x15, 0x18, 0x1E, 0x29, 0x33, 0x55, 0x65] := by
  unfold decodeFamilyF
  split
  case h_10 => simp [nnField_eq_iff] at *; omega
  all_goals simp [nnField_eq_iff.mp ‹_›]

/-! ### The opcode table: the fields that a row's mask leaves -/

open Laws.TableRow in
theorem opField_of_and_eq {w p : Word} (h : w &&& 0xF000 = p) : opField w = opField p := by
  rw [← h, ← wordNNN_fields w, nnn_selects, opField_wordNNN, opField_wordNNN]

open Laws.TableRow in
theorem op_nField_of_and_eq {w p : Word} (h : w &&& 0xF00F = p) : opField w = opField p ∧ nField w = nField p := by
  rw [← h, ← wordXYN_fields w, xyn_selects]
  simp only [opField_wordXYN, nField_wordXYN, and_self]

open Laws.TableRow in
theorem op_nnField_of_and_eq {w p : Word} (h : w &&& 0xF0FF = p) : opField w = opField p ∧ nnField w = nnField p := by
  rw [← h, ← wordXNN_fields w, xfn_selects]
  simp only [opField_wordXNN, nnField_wordXNN, and_self]

/-- A word that selects an instruction's row decodes to an instruction of that row. -/
theorem map_row_decodeWord_of_selects {w : Word} {i : Instr} (h : i.row.selects w = true) :
    (decodeWord w).map Instr.row = some i.row := by
  rw [OpcodeRow.selects, beq_iff_eq] at h
  cases i <;> dsimp only [Instr.row] at h ⊢
  case cls | ret =>
    have hw : w = _ := BitVec.and_allOnes.symm.trans h
    rw [hw]; rfl
  case jp | call | ldI | jpV0 | seImm | sneImm | ldImm | addImm | rnd | drw =>
    rw [decodeWord, opField_of_and_eq h]; rfl
  case seReg | sneReg =>
    obtain ⟨hop, hn⟩ := op_nField_of_and_eq h
    rw [decodeWord, hop, hn]; rfl
  case ldReg | orReg | andReg | xorReg | addReg | subReg | shr | subnReg | shl =>
    obtain ⟨hop, hn⟩ := op_nField_of_and_eq h
    rw [decodeWord, hop, decodeFamily8, hn]; rfl
  case skp | sknp =>
    obtain ⟨hop, hnn⟩ := op_nnField_of_and_eq h
    rw [decodeWord, hop, decodeFamilyE, hnn]; rfl
  case ldVxDT | ldVxK | ldDTVx | ldSTVx | addI | ldF | ldB | storeRegs | loadRegs =>
    obtain ⟨hop, hnn⟩ := op_nnField_of_and_eq h
    rw [decodeWord, hop, decodeFamilyF, hnn]; rfl

/-- Every row of the table is an instruction's: the one its own pattern decodes to. -/
theorem map_row_decodeWord_pattern : ∀ r ∈ opcodeTable, (decodeWord r.pattern).map Instr.row = some r := by
  decide

/-- A word that selects a row of the table decodes to an instruction of that row. -/
theorem exists_decodeWord_of_selects {w : Word} {r : OpcodeRow} (hr : r ∈ opcodeTable) (h : r.selects w = true) :
    ∃ i, decodeWord w = some i ∧ i.row = r := by
  obtain ⟨j, -, rfl⟩ := Option.map_eq_some_iff.mp (map_row_decodeWord_pattern r hr)
  exact Option.map_eq_some_iff.mp (map_row_decodeWord_of_selects h)

/-- The family TableRow, for every instruction at once. -/
theorem tableRow_statement (i : Instr) : Laws.TableRow.Statement i := by
  open Laws.TableRow in
  cases i
  exacts [cls, ret, jp _, call _, seImm _ _, sneImm _ _, seReg _ _, ldImm _ _, addImm _ _, ldReg _ _, orReg _ _,
    andReg _ _, xorReg _ _, addReg _ _, subReg _ _, shr _ _, subnReg _ _, shl _ _, sneReg _ _, ldI _, jpV0 _, rnd _ _,
    drw _ _ _, skp _, sknp _, ldVxDT _, ldVxK _, ldDTVx _, ldSTVx _, addI _, ldF _, ldB _, storeRegs _, loadRegs _]

/-- A word selects the row of the instruction it decodes to. -/
theorem row_selects_of_decodeWord {w : Word} {i : Instr} (h : decodeWord w = some i) :
    i.row.selects w = true ∧ i.row ∈ opcodeTable := by
  rw [← encode_of_decodeWord h]
  exact tableRow_statement i

end Sys2Proof

namespace Sys2Proof.Machine

/-- Settles O3: the two bytes are the word's, and the word decodes to the instruction. -/
theorem decodingEncodedBytesGivesTheInstruction : Obligations.DecodingEncodedBytesGivesTheInstruction := by
  unfold Obligations.DecodingEncodedBytesGivesTheInstruction
  exact decodeBytes_encodeBytes_append

/-- Settles O4: a word that decodes is rebuilt from its fields. -/
theorem encodingADecodedWordGivesTheWord : Obligations.EncodingADecodedWordGivesTheWord := by
  unfold Obligations.EncodingADecodedWordGivesTheWord
  exact fun _ _ => encode_of_decodeWord

/-- Settles O5: per family, the words that no arm of the decoder takes. -/
theorem unknownWordsAreExactlyTheListedOnes : Obligations.UnknownWordsAreExactlyTheListedOnes := by
  unfold Obligations.UnknownWordsAreExactlyTheListedOnes
  intro w
  unfold decodeWord
  split
  case h_1 hop => simp [opField_eq_iff.mp hop, decodeFamily0_eq_none_iff]
  case h_6 hop | h_10 hop => simp [opField_eq_iff.mp hop, nField_eq_iff]
  case h_9 hop => simp [opField_eq_iff.mp hop, decodeFamily8_eq_none_iff]
  case h_15 hop => simp [opField_eq_iff.mp hop, decodeFamilyE_eq_none_iff]
  case h_16 =>
    have hop : opField w = 0xF := by
      simp [opField_eq_iff] at *
      omega
    simp [opField_eq_iff.mp hop, decodeFamilyF_eq_none_iff]
  all_goals simp [opField_eq_iff.mp ‹_›]

/-- Settles O6: a selected row is the row of what the word decodes to, and a decoded word selects its own row. -/
theorem decodedWordSelectsExactlyItsTableRow : Obligations.DecodedWordSelectsExactlyItsTableRow := by
  unfold Obligations.DecodedWordSelectsExactlyItsTableRow
  refine fun w => ⟨⟨fun hnone r hr => ?none, fun hrows => ?known⟩, fun i hi => ?row⟩
  case none =>
    by_contra hsel
    obtain ⟨i, hi, -⟩ := exists_decodeWord_of_selects hr (Bool.eq_true_of_not_eq_false hsel)
    simp [hnone] at hi
  case known =>
    cases hw : decodeWord w with
    | none => rfl
    | some i =>
      obtain ⟨hsel, hmem⟩ := row_selects_of_decodeWord hw
      simp [hrows i.row hmem] at hsel
  case row =>
    obtain ⟨hsel, hmem⟩ := row_selects_of_decodeWord hi
    refine ⟨hmem, fun r hr => ⟨fun hrsel => ?_, fun hrow => hrow ▸ hsel⟩⟩
    obtain ⟨j, hj, rfl⟩ := exists_decodeWord_of_selects hr hrsel
    rw [Option.some.inj (hi.symm.trans hj)]

/-- Settles O2: fifteen fixed words, decoded. -/
theorem wordsOfTheSpecDecodeAsWritten : Obligations.WordsOfTheSpecDecodeAsWritten := by
  unfold Obligations.WordsOfTheSpecDecodeAsWritten
  decide

end Sys2Proof.Machine
end

section
/-! What an instruction does (spec/10_state.md sections 1, 4; spec/60_exceptions.md section 2): it raises its fault, and
then nothing else is written, or it completes, and then only the state elements that the spec names for it change. -/

namespace Sys2Proof.Machine

/-! ### The arms of `exec` -/

theorem exec_jp (nnn : Addr12) (s : State) : exec (.jp nnn) s = .next (s.setPc (absolute nnn)) := rfl

theorem exec_jpV0 (nnn : Addr12) (s : State) :
    exec (.jpV0 nnn) s = .next (s.setPc (computedTarget nnn (s.reg 0))) := rfl

theorem exec_call_of_lt {s : State} (nnn : Addr12) (h : s.sp.val < 16) :
    exec (.call nnn) s = .next { s with
      pc := absolute nnn, stack := s.stack.set s.sp.val s.pc, sp := ⟨s.sp.val + 1, by omega⟩ } := by
  show execCall nnn s = _
  rw [execCall, State.push_of_lt s.pc h]
  rfl

theorem exec_call_of_full {s : State} (nnn : Addr12) (h : s.sp.val = 16) :
    exec (.call nnn) s = .next (s.raise .stackOverflow s.pc) := by
  show execCall nnn s = _
  rw [execCall, (State.push_eq_none_iff s s.pc).mpr h]

theorem exec_ret_of_pos {s : State} (h : 0 < s.sp.val) :
    exec .ret s = .next { s with pc := s.stack[s.sp.val - 1]'(by omega), sp := ⟨s.sp.val - 1, by omega⟩ } := by
  show execRet s = _
  rw [execRet, State.pop_of_pos h]
  rfl

theorem exec_ret_of_empty {s : State} (h : s.sp.val = 0) : exec .ret s = .next (s.raise .stackUnderflow 0) := by
  show execRet s = _
  rw [execRet, (State.pop_eq_none_iff s).mpr h]

theorem exec_seImm (x : Reg) (nn : Byte) (s : State) : exec (.seImm x nn) s = .next (s.skipIf (s.reg x == nn)) := rfl

theorem exec_sneImm (x : Reg) (nn : Byte) (s : State) : exec (.sneImm x nn) s = .next (s.skipIf (s.reg x != nn)) := rfl

theorem exec_seReg (x y : Reg) (s : State) : exec (.seReg x y) s = .next (s.skipIf (s.reg x == s.reg y)) := rfl

theorem exec_sneReg (x y : Reg) (s : State) : exec (.sneReg x y) s = .next (s.skipIf (s.reg x != s.reg y)) := rfl

theorem exec_addReg (x y : Reg) (s : State) :
    exec (.addReg x y) s =
      .next ((s.setReg State.vf (carryFlag (s.reg x) (s.reg y))).setReg x (sumByte (s.reg x) (s.reg y))) := rfl

theorem exec_subReg (x y : Reg) (s : State) :
    exec (.subReg x y) s =
      let t := s.setReg State.vf (greaterFlag (s.reg x) (s.reg y))
      .next (t.setReg x (diffByte (t.reg x) (t.reg y))) := rfl

theorem exec_subnReg (x y : Reg) (s : State) :
    exec (.subnReg x y) s =
      let t := s.setReg State.vf (greaterFlag (s.reg y) (s.reg x))
      .next (t.setReg x (diffByte (t.reg y) (t.reg x))) := rfl

theorem exec_shr (x y : Reg) (s : State) :
    exec (.shr x y) s =
      let t := s.setReg State.vf (lowBitFlag (s.reg x))
      .next (t.setReg x (halfByte (t.reg x))) := rfl

theorem exec_shl (x y : Reg) (s : State) :
    exec (.shl x y) s =
      let t := s.setReg State.vf (highBitFlag (s.reg x))
      .next (t.setReg x (doubleByte (t.reg x))) := rfl

theorem exec_addI (x : Reg) (s : State) :
    exec (.addI x) s = .next ((s.setI (BitVec.ofNat 16 (s.i.toNat + (s.reg x).toNat))).setReg State.vf
      (rangeFlag (s.i.toNat + (s.reg x).toNat))) := rfl

theorem exec_ldB (x : Reg) (s : State) :
    exec (.ldB x) s = .next (s.checkRange 3 (s.writeBytes s.i.toNat (bcdDigits (s.reg x)))) := rfl

theorem exec_storeRegs (x : Reg) (s : State) :
    exec (.storeRegs x) s =
      .next (s.checkRange (x.val + 1) ((s.writeBytes s.i.toNat (s.regsUpTo x)).advanceI (x.val + 1))) := rfl

theorem exec_loadRegs (x : Reg) (s : State) :
    exec (.loadRegs x) s =
      .next (s.checkRange (x.val + 1) ((s.loadUpTo x s.i.toNat).advanceI (x.val + 1))) := rfl

theorem exec_drw (x y : Reg) (n : Nibble) (s : State) :
    exec (.drw x y n) s =
      .next (s.checkRange (rowsDrawn n (originY (s.reg y)))
        (s.blit (originX (s.reg x)) (originY (s.reg y)) (rowsDrawn n (originY (s.reg y))))) := rfl

theorem exec_rnd (x : Reg) (nn : Byte) (s : State) : exec (.rnd x nn) s = .next (s.setReg x (s.rnd &&& nn)).drawn := rfl

theorem exec_ldVxDT (x : Reg) (s : State) : exec (.ldVxDT x) s = .next (s.setReg x s.dt) := rfl

theorem exec_ldDTVx (x : Reg) (s : State) : exec (.ldDTVx x) s = .next (s.setDt (s.reg x)) := rfl

theorem exec_ldSTVx (x : Reg) (s : State) : exec (.ldSTVx x) s = .next (s.setSt (s.reg x)) := rfl

theorem exec_skp (x : Reg) (s : State) : exec (.skp x) s = .next (s.skipIf (s.keyDown (s.reg x))).drawn := rfl

theorem exec_sknp (x : Reg) (s : State) : exec (.sknp x) s = .next (s.skipIf (!s.keyDown (s.reg x))).drawn := rfl

theorem exec_ldVxK (x : Reg) (s : State) : exec (.ldVxK x) s = .next (s.setStatus (.waitKey x)) := rfl

/-! ### What an instruction leaves unchanged -/

/-- The column "written by" of 10_state.md section 1 for an instruction `i` that completes, from `s` to `t`. -/
structure Frame (i : Instr) (s t : State) : Prop where
  v : ∀ r : Reg, i.writesReg r = false → t.v[r.val] = s.v[r.val]
  pc : i.writesPc = false → t.pc = s.pc
  index : i.writesI = false → t.i = s.i
  stack : i.usesStack = false → t.stack = s.stack ∧ t.sp = s.sp
  mem : i.writesMem = false → t.mem = s.mem
  font : t.mem.font = s.mem.font
  disp : i.writesDisp = false → t.disp = s.disp ∧ t.output = s.output
  dt : (∀ x, i ≠ .ldDTVx x) → t.dt = s.dt
  st : (∀ x, i ≠ .ldSTVx x) → t.st = s.st
  status : (∀ x, i ≠ .ldVxK x) → t.status = s.status
  keyWait : ∀ x, i = .ldVxK x → t.status = .waitKey x
  shutdown : t.shutdown = s.shutdown
  started : t.started = s.started
  agenda : t.agenda = s.agenda

theorem getElem_set_reg_of_ne (v : Vector Byte 16) (b : Byte) {x r : Reg} (h : r ≠ x) :
    (v.set x.val b)[r.val] = v[r.val] :=
  Vector.getElem_set_ne x.isLt r.isLt (fun hv => h (Fin.ext hv.symm))

/-- Which instruction raises which fault, on what condition, recording what (60_exceptions.md section 2). -/
inductive Raises : Instr → State → Cause → Word → Prop
  | stackOverflow (nnn : Addr12) {s : State} (h : s.sp.val = 16) : Raises (.call nnn) s .stackOverflow s.pc
  | stackUnderflow {s : State} (h : s.sp.val = 0) : Raises .ret s .stackUnderflow 0
  | ldB (x : Reg) {s : State} (h : 0x1000 < s.i.toNat + 3) : Raises (.ldB x) s .memoryBounds (lowestOffending s.i)
  | storeRegs (x : Reg) {s : State} (h : 0x1000 < s.i.toNat + (x.val + 1)) :
      Raises (.storeRegs x) s .memoryBounds (lowestOffending s.i)
  | loadRegs (x : Reg) {s : State} (h : 0x1000 < s.i.toNat + (x.val + 1)) :
      Raises (.loadRegs x) s .memoryBounds (lowestOffending s.i)
  | drw (x y : Reg) (n : Nibble) {s : State} (h0 : rowsDrawn n (originY (s.reg y)) ≠ 0)
      (h : 0x1000 < s.i.toNat + rowsDrawn n (originY (s.reg y))) :
      Raises (.drw x y n) s .memoryBounds (lowestOffending s.i)

theorem getElem_set_flag_of_ne (v : Vector Byte 16) (b : Byte) {r : Reg} (h : r ≠ State.vf) :
    (v.set 15 b)[r.val] = v[r.val] :=
  getElem_set_reg_of_ne v b h

/-- An instruction whose range is checked raises MemoryBounds or completes. -/
theorem raises_or_completes_of_checkRange {i : Instr} {s t : State} {n : Nat}
    (he : exec i s = .next (s.checkRange n t))
    (hr : n ≠ 0 → 0x1000 < s.i.toNat + n → Raises i s .memoryBounds (lowestOffending s.i)) (hf : Frame i s t) :
    (∃ cause info, Raises i s cause info ∧ exec i s = .next (s.raise cause info)) ∨
    ∃ t, exec i s = .next t ∧ Frame i s t := by
  obtain ⟨-, hc⟩ | ⟨h0, h, hc⟩ := s.checkRange_cases t n <;> rw [hc] at he
  · exact .inr ⟨t, he, hf⟩
  · exact .inl ⟨_, _, hr h0 h, he⟩

/-- Every instruction answers a next state: it raises its fault, or it completes and keeps its frame. -/
theorem exec_raises_or_completes (i : Instr) (s : State) :
    (∃ cause info, Raises i s cause info ∧ exec i s = .next (s.raise cause info)) ∨
    ∃ t, exec i s = .next t ∧ Frame i s t := by
  cases i
  case call nnn =>
    by_cases h : s.sp.val = 16
    · exact .inl ⟨_, _, .stackOverflow nnn h, exec_call_of_full nnn h⟩
    · exact .inr ⟨_, exec_call_of_lt nnn (by omega), by constructor <;> simp [Instr.writesPc, Instr.usesStack]⟩
  case ret =>
    by_cases h : s.sp.val = 0
    · exact .inl ⟨_, _, .stackUnderflow h, exec_ret_of_empty h⟩
    · exact .inr ⟨_, exec_ret_of_pos (by omega), by constructor <;> simp [Instr.writesPc, Instr.usesStack]⟩
  case ldB x =>
    exact raises_or_completes_of_checkRange (exec_ldB x s) (fun _ => .ldB x)
      (by constructor <;> simp [Instr.writesMem])
  case storeRegs x =>
    exact raises_or_completes_of_checkRange (exec_storeRegs x s) (fun _ => .storeRegs x)
      (by constructor <;> simp [Instr.writesMem, Instr.writesI])
  case loadRegs x =>
    exact raises_or_completes_of_checkRange (exec_loadRegs x s) (fun _ => .loadRegs x)
      (by constructor <;> simp +contextual [Instr.writesReg, Instr.writesI, State.v_loadUpTo])
  case drw x y n =>
    exact raises_or_completes_of_checkRange (exec_drw x y n s) (.drw x y n)
      (by constructor <;> simp +contextual [Instr.writesReg, Instr.writesDisp, getElem_set_flag_of_ne])
  case jp | jpV0 | seImm | sneImm | seReg | sneReg | skp | sknp =>
    exact .inr ⟨_, rfl, by constructor <;> simp [Instr.writesPc]⟩
  case cls => exact .inr ⟨_, rfl, by constructor <;> simp [Instr.writesDisp]⟩
  case ldI | ldF => exact .inr ⟨_, rfl, by constructor <;> simp [Instr.writesI]⟩
  case addI =>
    exact .inr ⟨_, rfl, by
      constructor <;> simp +contextual [Instr.writesReg, Instr.writesI, getElem_set_flag_of_ne]⟩
  case ldDTVx | ldSTVx | ldVxK => exact .inr ⟨_, rfl, by constructor <;> simp⟩
  case ldImm | addImm | ldReg | orReg | andReg | xorReg | rnd | ldVxDT =>
    exact .inr ⟨_, rfl, by constructor <;> simp +contextual [Instr.writesReg, getElem_set_reg_of_ne]⟩
  case addReg | subReg | shr | subnReg | shl =>
    exact .inr ⟨_, rfl, by
      constructor <;> simp +contextual [Instr.writesReg, getElem_set_reg_of_ne, getElem_set_flag_of_ne]⟩

theorem exists_exec_eq_next (i : Instr) (s : State) : ∃ t, exec i s = .next t := by
  obtain ⟨cause, info, -, h⟩ | ⟨t, h, -⟩ := exec_raises_or_completes i s
  · exact ⟨_, h⟩
  · exact ⟨t, h⟩

/-- What the next state of an instruction can be. -/
theorem raises_or_frame_of_exec {i : Instr} {s t : State} (h : exec i s = .next t) :
    (∃ cause info, Raises i s cause info ∧ t = s.raise cause info) ∨ Frame i s t := by
  obtain ⟨cause, info, hr, he⟩ | ⟨u, he, hf⟩ := exec_raises_or_completes i s
  all_goals
    rw [h] at he
    cases he
  · exact .inl ⟨cause, info, hr, rfl⟩
  · exact .inr hf

/-! ### Consequences of the frame and of the faults -/

/-- An instruction that completes leaves no final status: it keeps the status, or it waits for a key. -/
theorem Frame.status_cases {i : Instr} {s t : State} (h : Frame i s t) :
    t.status = s.status ∨ ∃ x, t.status = .waitKey x := by
  by_cases hk : ∃ x, i = .ldVxK x
  · obtain ⟨x, hx⟩ := hk
    exact .inr ⟨x, h.keyWait x hx⟩
  · exact .inl (h.status fun x hx => hk ⟨x, hx⟩)

theorem Frame.isFinal_eq_false {i : Instr} {s t : State} (h : Frame i s t) (hs : s.status = .running) :
    t.status.isFinal = false := by
  obtain ht | ⟨x, ht⟩ := h.status_cases
  · rw [ht, hs]; rfl
  · rw [ht]; rfl

/-- A faulted next state of a running machine is the raise of the instruction's fault. -/
theorem raises_of_exec_faulted {i : Instr} {s t : State} {cause : Cause} {a info : Word} (hs : s.status = .running)
    (he : exec i s = .next t) (ht : t.status = .faulted cause a info) :
    a = s.pc - 2 ∧ Raises i s cause info ∧ t = s.raise cause info := by
  obtain ⟨cause', info', hr, rfl⟩ | hf := raises_or_frame_of_exec he
  · rw [State.raise_status] at ht
    cases ht
    exact ⟨rfl, hr, rfl⟩
  · have hfin := hf.isFinal_eq_false hs
    rw [ht] at hfin
    cases hfin

theorem toNat_lowestOffending (i : Word) : (lowestOffending i).toNat = max i.toNat 0x1000 := by
  rw [lowestOffending]
  split
  · rw [Nat.max_eq_right ‹_›]; rfl
  · rw [Nat.max_eq_left (by omega)]

/-- The rows that DXYN draws: those that lie in the grid (R161, R163). -/
theorem rowsDrawn_originY (n : Nibble) (b : Byte) : rowsDrawn n (originY b) = min n.toNat (32 - b.toNat % 32) := rfl

/-! ### The statements -/

/-- Settles O14: the conditions are those of `Raises`, a range of `n` bytes reaching up to address `I + n - 1`. -/
theorem eachFaultComesFromItsInstructions : Obligations.EachFaultComesFromItsInstructions := by
  unfold Obligations.EachFaultComesFromItsInstructions
  intro i s t cause a info hs he ht
  obtain ⟨ha, hr, -⟩ := raises_of_exec_faulted hs he ht
  refine ⟨ha, ?_⟩
  cases hr with
  | stackOverflow nnn h => exact .inl ⟨rfl, ⟨nnn, rfl⟩, Fin.ext h, rfl⟩
  | stackUnderflow h => exact .inr (.inl ⟨rfl, rfl, Fin.ext h, rfl⟩)
  | ldB x h => exact .inr (.inr ⟨rfl, toNat_lowestOffending s.i, .inl ⟨x, rfl, by omega⟩⟩)
  | storeRegs x h => exact .inr (.inr ⟨rfl, toNat_lowestOffending s.i, .inr (.inl ⟨x, .inl rfl, by omega⟩)⟩)
  | loadRegs x h => exact .inr (.inr ⟨rfl, toNat_lowestOffending s.i, .inr (.inl ⟨x, .inr rfl, by omega⟩)⟩)
  | drw x y n h0 h =>
    rw [rowsDrawn_originY, State.reg_eq] at h0 h
    exact .inr (.inr ⟨rfl, toNat_lowestOffending s.i, .inr (.inr ⟨x, y, n, rfl, by omega, by omega⟩)⟩)

/-- Settles O57: a state without a fault is that of an instruction that completes, and keeps its frame. -/
theorem eachStateElementHasItsWriters : Obligations.EachStateElementHasItsWriters := by
  unfold Obligations.EachStateElementHasItsWriters
  intro i s t hs he ht
  obtain ⟨cause, info, -, rfl⟩ | hf := raises_or_frame_of_exec he
  · cases ht
  · exact ⟨hf.index, hf.stack, fun hm a => by rw [hf.mem hm], hf.font, hf.disp, hf.dt, hf.st,
      fun hk => (hf.status hk).trans hs, hf.pc, hf.shutdown, hf.started, hf.agenda⟩

/-- Settles O58: raising a fault writes no register, and an instruction that completes keeps its frame. -/
theorem registersChangeOnlyWhereNamed : Obligations.RegistersChangeOnlyWhereNamed := by
  unfold Obligations.RegistersChangeOnlyWhereNamed
  intro i s t r he hr
  obtain ⟨cause, info, -, rfl⟩ | hf := raises_or_frame_of_exec he
  · rw [State.raise_v]
  · exact hf.v r hr

end Sys2Proof.Machine
end

section
/-! The engine step (spec/40_engine_cycle.md sections 1 to 3): the fetch, the instruction, and the stops. -/

namespace Sys2Proof.Machine

/-! ### An instruction step, by what the fetch finds -/

theorem instructionStep_of_decode {s : State} {i : Instr} (h : s.pc.toNat + 1 < 0x1000)
    (hd : decodeWord (wordOfBytes (s.mem.read s.pc.toNat) (s.mem.read (s.pc.toNat + 1))) = some i) :
    instructionStep exec s = exec i s.begun.advance := by
  simp only [instructionStep, fetch_of_lt h, dispatchWord, hd]

theorem instructionStep_of_unknown {s : State} {w : Word} (h : s.pc.toNat + 1 < 0x1000)
    (hw : w = wordOfBytes (s.mem.read s.pc.toNat) (s.mem.read (s.pc.toNat + 1))) (hd : decodeWord w = none) :
    instructionStep exec s = .next (reportUnknown w s.begun) := by
  subst hw
  simp only [instructionStep, fetch_of_lt h, dispatchWord, hd]

theorem instructionStep_of_ge {s : State} (h : 0x1000 ≤ s.pc.toNat) : instructionStep exec s = .next s.begun.halt := by
  simp only [instructionStep, fetch_of_ge h]

theorem instructionStep_of_eq {s : State} (h : s.pc.toNat = 0xFFF) :
    instructionStep exec s = .next (fetchFault s.begun) := by
  simp only [instructionStep, fetch_of_eq h]

/-! ### The two bytes of a word, stored and read back -/

theorem read_writeList_word {m : Memory} (hm : Memory.wf m = true) (a : Nat) (hi lo : Byte) :
    (m.writeList a [hi, lo]).read a = hi ∧ (m.writeList a [hi, lo]).read (a + 1) = lo := by
  constructor <;> simp [Memory.read_writeList hm]

namespace State

/-- `withFetchWord` leaves `pc` where two bytes can be fetched (log 26). -/
theorem withFetchWord_pc_lt (s : State) (nbits w : Nat) : (s.withFetchWord nbits w).pc.toNat + 1 < 0x1000 := by
  show (if s.pc.toNat + 1 < Config.memSize then s.pc else 0x0200 : Word).toNat + 1 < 0x1000
  split
  · assumption
  · decide

/-- The word that `withFetchWord` stores is the word the fetch reads. -/
theorem withFetchWord_word {s : State} (hm : Memory.wf s.mem = true) (nbits w : Nat) :
    wordOfBytes ((s.withFetchWord nbits w).mem.read (s.withFetchWord nbits w).pc.toNat)
      ((s.withFetchWord nbits w).mem.read ((s.withFetchWord nbits w).pc.toNat + 1)) =
        BitVec.ofNat 16 (w % 2 ^ nbits) := by
  obtain ⟨hhi, hlo⟩ := read_writeList_word hm (s.withFetchWord nbits w).pc.toNat
    (hiByte (BitVec.ofNat 16 (w % 2 ^ nbits))) (loByte (BitVec.ofNat 16 (w % 2 ^ nbits)))
  exact (congrArg₂ wordOfBytes hhi hlo).trans (wordOfBytes_hiByte_loByte _)

end State

/-! ### The statements -/

/-- Settles O8: the engine's step is an instruction step, and the fetch finds the word. -/
theorem stepRunsTheDecodedInstruction : Obligations.StepRunsTheDecodedInstruction := by
  unfold Obligations.StepRunsTheDecodedInstruction
  intro s rest i hn hr hpc hd
  exact (step_of_canRun hn hr).trans (instructionStep_of_decode hpc hd)

/-- Settles O9: after `withFetchWord` the engine is next and runs, and what the fetch reads is the word stored. -/
theorem withFetchWordRunsTheTableWord : Obligations.WithFetchWordRunsTheTableWord := by
  unfold Obligations.WithFetchWordRunsTheTableWord
  intro s nbits w i hm hd
  rw [decodeTableWord_eq, ← s.withFetchWord_word hm] at hd
  exact stepRunsTheDecodedInstruction _ [] i (.inl ⟨rfl, rfl⟩) ⟨rfl, rfl⟩ (s.withFetchWord_pc_lt nbits w) hd

/-- Settles O10: the word at `pc` has no instruction, so it is reported. -/
theorem unknownOpcodeIsAReportedNoOp : Obligations.UnknownOpcodeIsAReportedNoOp := by
  unfold Obligations.UnknownOpcodeIsAReportedNoOp
  intro s rest w hn hr hpc hw hd
  exact (step_of_canRun hn hr).trans (instructionStep_of_unknown hpc hw hd)

/-- Settles O11: the fetch finds no word at or above 0x1000, and only one byte at 0xFFF. -/
theorem fetchBeyondMemoryHaltsOrFaults : Obligations.FetchBeyondMemoryHaltsOrFaults := by
  unfold Obligations.FetchBeyondMemoryHaltsOrFaults
  refine fun s rest hn hr => ⟨fun hpc => ?halts, fun hpc => ?faults⟩
  case halts => exact (step_of_canRun hn hr).trans (instructionStep_of_ge hpc)
  case faults =>
    have hs : s.pc = 0xFFF := BitVec.eq_of_toNat_eq hpc
    refine (step_of_canRun hn hr).trans ((instructionStep_of_eq (s := s.setAgenda rest) hpc).trans ?_)
    rw [← hs]
    rfl

/-- Settles O12: the engine's step answers by the status, which taking the agenda's head off leaves as it is. -/
theorem finalStatesTakeNoEngineStep : Obligations.FinalStatesTakeNoEngineStep := by
  unfold Obligations.FinalStatesTakeNoEngineStep
  refine fun s rest hn => ⟨fun hs => ?_, fun cause a info hs => ?_, fun hs hd => ?_⟩
  all_goals rw [step_of_engineNext hn, engineStep, State.setAgenda_status, hs]
  rw [State.setAgenda_shutdown, if_pos hd]

/-- Settles O13: the fetch's fault keeps `pc`, and an instruction's fault takes the fetch's advance back. -/
theorem faultingStepIsPrecise : Obligations.FaultingStepIsPrecise := by
  unfold Obligations.FaultingStepIsPrecise
  intro s t rest cause a info hn hr hstep ht
  rw [step_of_canRun hn hr] at hstep
  obtain ⟨-, he⟩ | ⟨-, he⟩ | ⟨-, w, -, -, he⟩ | ⟨-, w, i, -, -, he⟩ := instructionStep_cases (s.setAgenda rest)
  all_goals rw [he] at hstep
  case inl => cases hstep; cases ht
  case inr.inl =>
    cases hstep
    cases ht
    exact ⟨rfl, rfl⟩
  case inr.inr.inl =>
    cases hstep
    cases hr.1.symm.trans ht
  case inr.inr.inr =>
    obtain ⟨rfl, -, rfl⟩ := raises_of_exec_faulted (s := (s.setAgenda rest).begun.advance) hr.1 hstep ht
    have hpc : s.pc + 2 - 2 = s.pc := BitVec.add_sub_cancel s.pc 2
    refine ⟨hpc, ?_⟩
    show State.raiseAt _ (s.pc + 2 - 2) cause info = _
    rw [hpc]
    rfl

end Sys2Proof.Machine
end

section
/-! Every step (spec/40_engine_cycle.md sections 1 and 2): the transitions there are, and what each of them keeps. -/

namespace Sys2Proof.Machine

/-! ### What an instruction can do to `pc`, the stack and memory -/

theorem State.skipIf_pc_cases (s : State) (c : Bool) : (s.skipIf c).pc = s.pc ∨ (s.skipIf c).pc = s.pc + 2 := by
  cases c
  · exact .inl rfl
  · exact .inr rfl

/-- Where an instruction can leave `pc`: advanced, one instruction further, back at a fault's address, at an operand's
target, or at a stack entry. -/
theorem pc_of_exec {i : Instr} {s t : State} (h : exec i s = .next t) :
    t.pc = s.pc ∨ t.pc = s.pc + 2 ∨ t.pc = s.pc - 2 ∨ (∃ nnn, t.pc = absolute nnn) ∨
    (∃ nnn b, t.pc = computedTarget nnn b) ∨ ∃ k : Fin 16, t.pc = s.stack[k.val] := by
  cases i
  case jp nnn => cases h; exact .inr (.inr (.inr (.inl ⟨nnn, rfl⟩)))
  case jpV0 nnn => cases h; exact .inr (.inr (.inr (.inr (.inl ⟨nnn, _, rfl⟩))))
  case call nnn =>
    by_cases hsp : s.sp.val = 16
    · rw [exec_call_of_full nnn hsp] at h; cases h; exact .inr (.inr (.inl rfl))
    · rw [exec_call_of_lt nnn (by omega)] at h; cases h; exact .inr (.inr (.inr (.inl ⟨nnn, rfl⟩)))
  case ret =>
    by_cases hsp : s.sp.val = 0
    · rw [exec_ret_of_empty hsp] at h; cases h; exact .inr (.inr (.inl rfl))
    · rw [exec_ret_of_pos (by omega)] at h; cases h
      exact .inr (.inr (.inr (.inr (.inr ⟨⟨s.sp.val - 1, by omega⟩, rfl⟩))))
  case seImm | sneImm | seReg | sneReg | skp | sknp =>
    cases h
    exact (s.skipIf_pc_cases _).imp_right .inl
  all_goals
    obtain ⟨cause, info, -, rfl⟩ | hf := raises_or_frame_of_exec h
    · exact .inr (.inr (.inl rfl))
    · exact .inl (hf.pc rfl)

/-- An instruction leaves a stack entry as it is, or stores the advanced `pc` in it. -/
theorem stack_of_exec {i : Instr} {s t : State} (h : exec i s = .next t) (k : Fin 16) :
    t.stack[k.val] = s.stack[k.val] ∨ t.stack[k.val] = s.pc := by
  cases i
  case call nnn =>
    by_cases hsp : s.sp.val = 16
    · rw [exec_call_of_full nnn hsp] at h; cases h; exact .inl rfl
    · rw [exec_call_of_lt nnn (by omega)] at h; cases h
      rw [Vector.getElem_set]
      split
      · exact .inr rfl
      · exact .inl rfl
  case ret =>
    by_cases hsp : s.sp.val = 0
    · rw [exec_ret_of_empty hsp] at h; cases h; exact .inl rfl
    · rw [exec_ret_of_pos (by omega)] at h; cases h; exact .inl rfl
  all_goals
    obtain ⟨cause, info, -, rfl⟩ | hf := raises_or_frame_of_exec h
    · exact .inl rfl
    · exact .inl (by rw [(hf.stack rfl).1])

/-- An instruction leaves memory as it is, or stores bytes inside it. -/
theorem mem_of_exec {i : Instr} {s t : State} (h : exec i s = .next t) :
    t.mem = s.mem ∨ ∃ a l, a + l.length ≤ 0x1000 ∧ t.mem = s.mem.writeList a l := by
  cases i
  case ldB x =>
    rw [exec_ldB] at h
    cases h
    obtain ⟨hb, hc⟩ | ⟨-, -, hc⟩ := s.checkRange_cases (s.writeBytes s.i.toNat (bcdDigits (s.reg x))) 3 <;> rw [hc]
    · exact .inr ⟨_, _, by rw [State.length_bcdDigits]; omega, rfl⟩
    · exact .inl rfl
  case storeRegs x =>
    rw [exec_storeRegs] at h
    cases h
    obtain ⟨hb, hc⟩ | ⟨-, -, hc⟩ := s.checkRange_cases
      ((s.writeBytes s.i.toNat (s.regsUpTo x)).advanceI (x.val + 1)) (x.val + 1) <;> rw [hc]
    · exact .inr ⟨_, _, by rw [State.length_regsUpTo]; omega, rfl⟩
    · exact .inl rfl
  all_goals
    obtain ⟨cause, info, -, rfl⟩ | hf := raises_or_frame_of_exec h
    · exact .inl rfl
    · exact .inl (hf.mem rfl)

/-! ### The transitions -/

/-- The transitions of the machine, one constructor for each way an action can be enabled (R81): the engine's, the
ticker's and the host's. -/
inductive Transition : Action → State → State → Prop
  | halt {s : State} (hr : s.canRun) (h : 0x1000 ≤ s.pc.toNat) : Transition .engine s s.begun.halt
  | fetchFault {s : State} (hr : s.canRun) (h : s.pc.toNat = 0xFFF) : Transition .engine s (fetchFault s.begun)
  | unknown {s : State} (w : Word) (hr : s.canRun) (h : s.pc.toNat + 1 < 0x1000) :
      Transition .engine s (reportUnknown w s.begun)
  | instr {s t : State} {i : Instr} (hr : s.canRun) (h : s.pc.toNat + 1 < 0x1000)
      (he : exec i s.begun.advance = .next t) : Transition .engine s t
  | wait {s : State} {x : Reg} (h : s.status = .waitKey x) : Transition .engine s s.drawn
  | answer {s : State} {x : Reg} (h : s.status = .waitKey x) (k : Key) :
      Transition .engine s (completeKeyWait x k s.drawn)
  | tick {s : State} (h : s.shutdown = false) : Transition .tick s s.ticked
  | key {s : State} {x : Reg} (h : s.status = .waitKey x) (k : Key) : Transition (.key k) s (completeKeyWait x k s)
  | shutdown {s : State} : Transition .shutdown s (shutdownStep s)
  | load {s : State} {bytes : List Byte} (hs : s.started = false) (h : bytes.length ≤ 3584) :
      Transition (.load bytes) s (s.writeBytes Config.progBase bytes)
  | reset {s : State} (h : s.shutdown = true) :
      Transition .reset s { State.resetWith s.mem.font with agenda := s.agenda, draws := s.draws, output := s.output }

theorem programFits_iff {bytes : List Byte} : programFits bytes = true ↔ bytes.length ≤ 3584 := decide_eq_true_iff

theorem transition_of_engineStep {s t : State} (h : engineStep s = .next t) : Transition .engine s t := by
  rw [engineStep] at h
  split at h
  case h_1 hs =>
    split at h
    case isTrue => cases h
    case isFalse hd =>
      have hr : s.canRun := ⟨hs, Bool.eq_false_of_not_eq_true hd⟩
      obtain ⟨hpc, he⟩ | ⟨hpc, he⟩ | ⟨hpc, w, -, -, he⟩ | ⟨hpc, w, i, -, -, he⟩ := instructionStep_cases s
      all_goals rw [he] at h
      · cases h; exact .halt hr hpc
      · cases h; exact .fetchFault hr hpc
      · cases h; exact .unknown w hr hpc
      · exact .instr hr hpc h
  case h_2 x hs =>
    cases h
    rw [awaitKeyStep]
    split
    · exact .answer hs _
    · exact .wait hs
  case h_3 => cases h
  case h_4 => cases h

/-- What an action does is one of the transitions. -/
theorem transition_of_act {e : Action} {s t : State} (h : act e s = .next t) : Transition e s t := by
  cases e with
  | engine => exact transition_of_engineStep h
  | tick =>
    rw [act, tickerStep] at h
    split at h
    · cases h
    · cases h; exact .tick (Bool.eq_false_of_not_eq_true ‹_›)
  | key k =>
    rw [act, keyStep] at h
    split at h
    case h_1 hs => cases h; exact .key hs k
    all_goals cases h
  | shutdown => cases h; exact .shutdown
  | load bytes =>
    rw [act, loadStep] at h
    split at h
    case isTrue => cases h
    case isFalse hs =>
      split at h
      case isTrue hfits => cases h; exact .load (Bool.eq_false_of_not_eq_true hs) (programFits_iff.mp hfits)
      case isFalse => cases h
  | reset =>
    rw [act, resetStep] at h
    split at h
    · cases h; exact .reset ‹_›
    · cases h

/-- Every step is a transition of the action that is due, on the state with the agenda's head taken off. -/
theorem transition_of_step {s t : State} (h : step s = .next t) :
    ∃ e rest, ((s.agenda = [] ∧ e = .engine) ∨ s.agenda = e :: rest) ∧ Transition e (s.setAgenda rest) t := by
  cases ha : s.agenda with
  | nil =>
    rw [step_of_engineNext (.inl ⟨ha, rfl⟩)] at h
    exact ⟨.engine, [], .inl ⟨rfl, rfl⟩, transition_of_engineStep h⟩
  | cons e rest =>
    rw [step_of_action ha] at h
    exact ⟨e, rest, .inr rfl, transition_of_act h⟩

/-! ### The invariant, transition by transition -/

theorem toNat_absolute_lt (nnn : Addr12) : (absolute nnn).toNat < 0x1000 := by
  rw [absolute, BitVec.toNat_setWidth]
  omega

/-- The computed target does not wrap. -/
theorem toNat_computedTarget (nnn : Addr12) (b : Byte) : (computedTarget nnn b).toNat = nnn.toNat + b.toNat := by
  rw [computedTarget, BitVec.toNat_add, BitVec.toNat_setWidth, BitVec.toNat_setWidth]
  omega

/-- The advance of the fetch does not wrap. -/
theorem toNat_add_two {w : Word} (h : w.toNat + 2 < 0x10000) : (w + 2).toNat = w.toNat + 2 :=
  BitVec.toNat_add_of_lt (by simp; omega)

/-- A completed or faulted instruction keeps the invariant. -/
theorem inv_of_exec {i : Instr} {s t : State} (hi : s.Inv) (hs : s.status = .running) (hpc : s.pc.toNat + 1 < 0x1000)
    (h : exec i s.begun.advance = .next t) : t.Inv := by
  have hadv : s.begun.advance.pc.toNat = s.pc.toNat + 2 := toNat_add_two (w := s.pc) (by omega)
  refine ⟨?mem, ?pc, ?stack, ?final, ?fault⟩
  case mem =>
    obtain hm | ⟨a, l, hl, hm⟩ := mem_of_exec h <;> rw [hm]
    · exact hi.memory_canonical
    · exact Memory.wf_writeList hi.memory_canonical hl
  case pc =>
    obtain ht | ht | ht | ⟨nnn, ht⟩ | ⟨nnn, b, ht⟩ | ⟨k, ht⟩ := pc_of_exec h <;> rw [ht]
    · omega
    · have := toNat_add_two (w := s.begun.advance.pc) (by omega)
      omega
    · rw [State.advance_pc, State.begun_pc, BitVec.add_sub_cancel]; exact hi.pc_bound
    · have := toNat_absolute_lt nnn; omega
    · rw [toNat_computedTarget]; omega
    · exact (hi.stack_bound k).trans (by decide)
  case stack =>
    intro k
    obtain ht | ht := stack_of_exec h k <;> rw [ht]
    · exact hi.stack_bound k
    · omega
  case final =>
    intro hfin
    obtain ⟨cause, info, -, rfl⟩ | hf := raises_or_frame_of_exec h
    · rfl
    · rw [hf.isFinal_eq_false hs] at hfin; cases hfin
  case fault =>
    intro cause a info ht
    obtain ⟨rfl, -, rfl⟩ := raises_of_exec_faulted (s := s.begun.advance) hs h ht
    rfl

theorem inv_of_running {s : State} (hm : Memory.wf s.mem = true) (hpc : s.pc.toNat ≤ 0x10FE)
    (hst : ∀ k : Fin 16, (s.stack[k.val]).toNat ≤ 0x1000) (hs : s.status = .running) : s.Inv := by
  refine ⟨hm, hpc, hst, fun hfin => ?_, fun _ _ _ hf => ?_⟩
  · rw [hs] at hfin; cases hfin
  · cases hs.symm.trans hf

theorem resetWith_inv (font : Font) : (State.resetWith font).Inv :=
  inv_of_running (Memory.wf_blank font) (by simp) (fun k => by simp) rfl

/-- Every transition keeps the invariant. -/
theorem Transition.inv {e : Action} {s t : State} (h : Transition e s t) (hi : s.Inv) : t.Inv := by
  have ⟨hm, hpc, hst, hfin, hfa⟩ := hi
  cases h with
  | halt => exact ⟨hm, hpc, hst, fun _ => rfl, nofun⟩
  | fetchFault => exact ⟨hm, hpc, hst, fun _ => rfl, fun _ _ _ hf => by cases hf; rfl⟩
  | unknown w hr h =>
    refine inv_of_running hm ?_ hst hr.1
    show (s.pc + 2).toNat ≤ 0x10FE
    rw [toNat_add_two (by omega)]
    omega
  | instr hr h he => exact inv_of_exec hi hr.1 h he
  | wait => exact ⟨hm, hpc, hst, hfin, hfa⟩
  | answer | key => exact inv_of_running hm hpc hst rfl
  | tick => exact ⟨hm, hpc, hst, hfin, hfa⟩
  | shutdown => exact ⟨hm, hpc, hst, fun _ => rfl, hfa⟩
  | load _ h =>
    exact ⟨State.wf_writeBytes hm (by simp only [Config.progBase]; omega), hpc, hst, hfin, hfa⟩
  | reset =>
    obtain ⟨hm, hpc, hst, hfin, hfa⟩ := resetWith_inv s.mem.font
    exact ⟨hm, hpc, hst, hfin, hfa⟩

/-! ### What else the transitions keep -/

/-- No transition but the reset clears `shutdown`. -/
theorem Transition.shutdown_eq_true {e : Action} {s t : State} (h : Transition e s t) (he : e ≠ .reset)
    (hd : s.shutdown = true) : t.shutdown = true := by
  cases h with
  | halt | fetchFault | shutdown => rfl
  | unknown | wait | answer | key | load => exact hd
  | instr hr => cases hr.2.symm.trans hd
  | tick h => cases h.symm.trans hd
  | reset => exact absurd rfl he

/-- No transition but the reset leaves a final status. -/
theorem Transition.status_of_isFinal {e : Action} {s t : State} (h : Transition e s t) (he : e ≠ .reset)
    (hf : s.status.isFinal = true) : t.status = s.status := by
  cases h with
  | halt hr | fetchFault hr | unknown _ hr | instr hr => rw [hr.1] at hf; cases hf
  | wait | tick | shutdown | load => rfl
  | answer h | key h => rw [h] at hf; cases hf
  | reset => exact absurd rfl he

theorem font_of_exec {i : Instr} {s t : State} (h : exec i s = .next t) : t.mem.font = s.mem.font := by
  obtain ⟨cause, info, -, rfl⟩ | hf := raises_or_frame_of_exec h
  · rfl
  · exact hf.font

/-- No transition changes the machine's FONT. -/
theorem Transition.font {e : Action} {s t : State} (h : Transition e s t) : t.mem.font = s.mem.font := by
  cases h with
  | instr _ _ he => exact (font_of_exec he :)
  | load => exact Memory.writeList_font s.mem _ _
  | halt | fetchFault | unknown | wait | answer | tick | key | shutdown | reset => rfl

/-! ### The statements -/

/-- Settles O55: every transition keeps the invariant, which does not read the agenda. -/
theorem everyStepKeepsTheInvariant : Obligations.EveryStepKeepsTheInvariant := by
  unfold Obligations.EveryStepKeepsTheInvariant
  intro s t hi h
  obtain ⟨e, rest, -, ht⟩ := transition_of_step h
  obtain ⟨hm, hpc, hst, hfin, hfa⟩ := hi
  exact ht.inv ⟨hm, hpc, hst, hfin, hfa⟩

/-- Settles O54: reset leaves blank memory, `pc` at 0x200, zero stack entries and a status that is not final. -/
theorem resetMeetsTheInvariant : Obligations.ResetMeetsTheInvariant := by
  unfold Obligations.ResetMeetsTheInvariant
  exact ⟨resetWith_inv defaultFont, resetWith_inv⟩

/-- Settles O56: the action taken is not a reset, and no other transition clears the flag or leaves a final status. -/
theorem onlyResetLeavesAFinalState : Obligations.OnlyResetLeavesAFinalState := by
  unfold Obligations.OnlyResetLeavesAFinalState
  intro s t h hreset
  obtain ⟨e, rest, ha, ht⟩ := transition_of_step h
  have he : e ≠ .reset := by
    rintro rfl
    obtain ⟨-, he⟩ | ha := ha
    · cases he
    · exact hreset ⟨rest, ha⟩
  exact ⟨ht.shutdown_eq_true he, ht.status_of_isFinal he⟩

/-- Settles O60: memory at reset reads as the reset contents, and no transition changes the parameter. -/
theorem anyFontIsTheMachinesAndStays : Obligations.AnyFontIsTheMachinesAndStays := by
  unfold Obligations.AnyFontIsTheMachinesAndStays
  refine ⟨fun font => ⟨fun k => resetByte_font font k.isLt, fun a => resetByte_of_outside font⟩, fun s t h => ?_⟩
  obtain ⟨e, rest, -, ht⟩ := transition_of_step h
  exact ht.font

end Sys2Proof.Machine
end

section
/-! Control transfer (spec/41_control_transfer.md) and arithmetic with flags (spec/42_alu.md R126 to R130). -/

namespace Sys2Proof.Machine

/-! ### Values, flags and targets as the spec writes them -/

theorem flagOf_decide (p : Prop) [Decidable p] : flagOf (decide p) = if p then 1 else 0 := by
  by_cases h : p <;> simp [flagOf, h]

theorem sumByte_eq (a b : Byte) : sumByte a b = BitVec.ofNat 8 ((a.toNat + b.toNat) % 256) := by
  apply BitVec.eq_of_toNat_eq
  rw [toNat_sumByte, BitVec.toNat_ofNat]
  omega

theorem diffByte_eq (a b : Byte) : diffByte a b = BitVec.ofNat 8 ((a.toNat + 256 - b.toNat) % 256) := by
  apply BitVec.eq_of_toNat_eq
  rw [diffByte, BitVec.toNat_ofInt, BitVec.toNat_ofNat]
  omega

theorem toNat_ite_one_zero (p : Prop) [Decidable p] : (if p then 1 else 0 : Byte).toNat = if p then 1 else 0 := by
  split <;> rfl

/-- Bit `k` of a byte as a flag. -/
theorem flagOf_getLsbD (a : Byte) (k n : Nat) (h : a.toNat / 2 ^ k % 2 = n) :
    flagOf (a.getLsbD k) = BitVec.ofNat 8 n := by
  rw [BitVec.getLsbD, Nat.testBit_eq_decide_div_mod_eq, flagOf_decide, h]
  obtain hn | hn : n = 0 ∨ n = 1 := by omega
  all_goals subst hn; rfl

theorem lowBitFlag_eq (a : Byte) : lowBitFlag a = BitVec.ofNat 8 (a.toNat % 2) :=
  flagOf_getLsbD a 0 _ (by rw [pow_zero, Nat.div_one])

theorem highBitFlag_eq (a : Byte) : highBitFlag a = BitVec.ofNat 8 (a.toNat / 128) :=
  flagOf_getLsbD a 7 _ (by omega)

/-- Half of a flag is 0. -/
theorem halfByte_ofNat_mod_two (n : Nat) : halfByte (BitVec.ofNat 8 (n % 2)) = 0 := by
  rw [halfByte, BitVec.toNat_ofNat, Nat.div_eq_of_lt (by omega)]
  rfl

/-- Twice a flag does not wrap. -/
theorem toNat_highBit_mul_two (a : Byte) : (BitVec.ofNat 8 (a.toNat / 128)).toNat * 2 % 256 = 2 * (a.toNat / 128) := by
  rw [BitVec.toNat_ofNat]
  omega

theorem doubleByte_eq (a : Byte) : doubleByte a = BitVec.ofNat 8 (a.toNat * 2 % 256) := by
  apply BitVec.eq_of_toNat_eq
  rw [doubleByte, BitVec.toNat_ofNat, BitVec.toNat_ofNat]
  omega

/-! ### Setting the flag, then a register -/

theorem setReg_vf_setReg_vf (s : State) (b c : Byte) :
    (s.setReg State.vf b).setReg State.vf c = { s with v := s.v.set 15 c } := by
  rw [State.setReg, State.setReg_v, Vector.set_set]
  rfl

/-! ### The statements -/

/-- Settles O15: the target is set, and does not wrap. -/
theorem jumpsGoToTheirTarget : Obligations.JumpsGoToTheirTarget := by
  unfold Obligations.JumpsGoToTheirTarget
  intro nnn s
  refine ⟨?_, _, exec_jpV0 nnn s, rfl, toNat_computedTarget nnn _⟩
  rw [exec_jp, absolute_eq_ofNat, State.setPc]

/-- Settles O16: the push succeeds below a full stack. -/
theorem callPushesTheAdvancedPc : Obligations.CallPushesTheAdvancedPc := by
  unfold Obligations.CallPushesTheAdvancedPc
  intro nnn s h
  rw [exec_call_of_lt nnn h, absolute_eq_ofNat]

/-- Settles O17: the pop reads the entry at the decremented depth. -/
theorem returnGoesToTheNewestEntry : Obligations.ReturnGoesToTheNewestEntry := by
  unfold Obligations.ReturnGoesToTheNewestEntry
  intro s d hd
  rw [exec_ret_of_pos (by omega)]
  simp only [hd, Nat.add_sub_cancel]
  rfl

/-- Settles O18: the push fails on a full stack, the pop on an empty one, and each raises its fault. -/
theorem stackMisuseFaults : Obligations.StackMisuseFaults := by
  unfold Obligations.StackMisuseFaults
  exact fun s => ⟨fun h nnn => exec_call_of_full nnn (congrArg Fin.val h),
    fun h => exec_ret_of_empty (congrArg Fin.val h)⟩

/-- Settles O19: the return pops the entry that the call pushed. -/
theorem callThenReturnResumesAfterTheCall : Obligations.CallThenReturnResumesAfterTheCall := by
  unfold Obligations.CallThenReturnResumesAfterTheCall
  intro nnn s p h
  have htop : (s.stack.set s.sp.val s.pc)[s.sp.val] = s.pc := Vector.getElem_set_self h
  refine ⟨_, { s with stack := s.stack.set s.sp.val s.pc }, exec_call_of_lt nnn h,
    (returnGoesToTheNewestEntry _ ⟨s.sp.val, h⟩ rfl).trans ?_, rfl, rfl,
    fun k hk => Vector.getElem_set_ne h k.isLt (Ne.symm hk)⟩
  simp only [htop]
  rfl

/-- Settles O20: `skipIf` adds 2 exactly when its condition holds. -/
theorem skipsFollowTheirCondition : Obligations.SkipsFollowTheirCondition := by
  unfold Obligations.SkipsFollowTheirCondition
  intro x y nn s
  rw [exec_seImm, exec_sneImm, exec_seReg, exec_sneReg]
  simp [State.skipIf, State.reg_eq]

/-- Settles O27: both operands are read first; with X = F the sum is written over the carry. -/
theorem addRegistersGivesSumAndCarry : Obligations.AddRegistersGivesSumAndCarry := by
  unfold Obligations.AddRegistersGivesSumAndCarry
  rintro x y s sum rfl
  rw [exec_addReg, carryFlag, flagOf_decide, sumByte_eq, State.reg_eq, State.reg_eq]
  refine ⟨fun _ => rfl, ?_⟩
  rintro rfl
  rw [setReg_vf_setReg_vf]

/-- Settles O28: the operands are read after the flag is written, so an operand VF is the flag. -/
theorem subtractionsGiveDifferenceAndFlag : Obligations.SubtractionsGiveDifferenceAndFlag := by
  unfold Obligations.SubtractionsGiveDifferenceAndFlag
  rintro x y s a b rfl rfl
  simp only [exec_subReg, exec_subnReg, greaterFlag, gt_iff_lt, flagOf_decide, State.reg_setReg, diffByte_eq]
  refine ⟨fun hx hy => ?neither, ?subtrahend, ?minuend, ?both⟩
  case neither =>
    simp only [if_neg hx, if_neg hy]
    exact ⟨rfl, rfl⟩
  case subtrahend =>
    rintro hx rfl
    simp only [if_neg hx, if_true, toNat_ite_one_zero]
    exact ⟨rfl, rfl⟩
  case minuend =>
    rintro rfl hy
    simp only [if_neg hy, if_true, toNat_ite_one_zero, setReg_vf_setReg_vf]
    exact ⟨rfl, rfl⟩
  case both =>
    rintro rfl rfl
    simp [setReg_vf_setReg_vf]

/-- Settles O29: the register is read after the flag is written, so V[F] shifted is the flag shifted. -/
theorem shiftsActInPlaceAndIgnoreY : Obligations.ShiftsActInPlaceAndIgnoreY := by
  unfold Obligations.ShiftsActInPlaceAndIgnoreY
  rintro x y s a rfl
  simp only [exec_shr, exec_shl, lowBitFlag_eq, highBitFlag_eq, State.reg_setReg, doubleByte_eq]
  refine ⟨fun hx => ?other, ?flag⟩
  case other =>
    simp only [if_neg hx]
    exact ⟨rfl, rfl⟩
  case flag =>
    rintro rfl
    simp only [if_true, setReg_vf_setReg_vf, halfByte_ofNat_mod_two, toNat_highBit_mul_two]
    exact ⟨trivial, rfl⟩

end Sys2Proof.Machine
end

section
/-! Index and memory instructions (spec/43_index_memory.md; spec/20_memory.md sections 4, 7): FX1E, FX33, FX55, FX65,
and the fault of a range that leaves memory. -/

namespace Sys2Proof.Machine

/-! ### The instructions when their range lies inside memory -/

theorem exec_ldB_of_le {s : State} (x : Reg) (h : s.i.toNat + 2 ≤ 0xFFF) :
    exec (.ldB x) s = .next (s.writeBytes s.i.toNat (bcdDigits (s.reg x))) := by
  rw [exec_ldB, State.checkRange_of_inBounds (by omega)]

theorem exec_storeRegs_of_le {s : State} {x : Reg} (h : s.i.toNat + x.val ≤ 0xFFF) :
    exec (.storeRegs x) s = .next ((s.writeBytes s.i.toNat (s.regsUpTo x)).advanceI (x.val + 1)) := by
  rw [exec_storeRegs, State.checkRange_of_inBounds (by omega)]

theorem exec_loadRegs_of_le {s : State} {x : Reg} (h : s.i.toNat + x.val ≤ 0xFFF) :
    exec (.loadRegs x) s = .next ((s.loadUpTo x s.i.toNat).advanceI (x.val + 1)) := by
  rw [exec_loadRegs, State.checkRange_of_inBounds (by omega)]

/-! ### The instructions when their range leaves memory -/

theorem lowestOffending_eq (i : Word) : lowestOffending i = BitVec.ofNat 16 (max i.toNat 0x1000) := by
  apply BitVec.eq_of_toNat_eq
  rw [toNat_lowestOffending, BitVec.toNat_ofNat]
  omega

/-- A range of `n` bytes that leaves memory raises MemoryBounds, recording `max(I, 0x1000)` (R206). -/
theorem next_checkRange_of_out {s t : State} {n : Nat} (h0 : 0 < n) (h : 0xFFF < s.i.toNat + n - 1) :
    (.next (s.checkRange n t) : Result) = .next { s with
      pc := s.pc - 2
      status := .faulted .memoryBounds (s.pc - 2) (BitVec.ofNat 16 (max s.i.toNat 0x1000))
      shutdown := true } := by
  rw [State.checkRange_of_out (by omega) (by omega), lowestOffending_eq]
  rfl

/-! ### What is in memory after a store -/

theorem read_writeBytes_add {s : State} (hm : Memory.wf s.mem = true) {a k : Nat} {l : List Byte} (hk : k < l.length) :
    (s.writeBytes a l).mem.read (a + k) = l.getD k 0 := by
  rw [State.writeBytes_mem, Memory.read_writeList hm, if_pos (by omega), Nat.add_sub_cancel_left]

/-- FX55 stores register `k` at `I + k`. -/
theorem read_writeBytes_regsUpTo {s : State} (hm : Memory.wf s.mem = true) (a : Nat) {x k : Reg} (hk : k ≤ x) :
    (s.writeBytes a (s.regsUpTo x)).mem.read (a + k.val) = s.v[k.val] := by
  have hkx : k.val ≤ x.val := hk
  rw [read_writeBytes_add hm (by rw [State.length_regsUpTo]; omega), State.getD_regsUpTo s x hkx]

/-- A store of bytes leaves every other byte as it is. -/
theorem read_writeBytes_of_outside {s : State} (hm : Memory.wf s.mem = true) {a b : Nat} {l : List Byte}
    (hb : b < a ∨ a + l.length ≤ b) : (s.writeBytes a l).mem.read b = s.mem.read b := by
  rw [State.writeBytes_mem, Memory.read_writeList hm, if_neg (by omega)]

/-- A store of bytes changes the cells of memory and nothing else. -/
theorem writeBytes_eq_with_cells (s : State) (a : Nat) (l : List Byte) :
    s.writeBytes a l = { s with mem := { s.mem with cells := (s.writeBytes a l).mem.cells } } := by
  have hcells := Memory.with_cells (s.mem.writeList_font a l)
  exact congrArg (fun m => { s with mem := m }) hcells.symm

/-! ### What FX65 loads, and where `I` ends -/

theorem v_loadUpTo_of_le (s : State) (a : Nat) {x k : Reg} (hk : k ≤ x) :
    (s.loadUpTo x a).v[k.val] = s.mem.read (a + k.val) := by
  rw [State.v_loadUpTo, if_pos (Fin.le_def.mp hk)]
  rfl

theorem v_loadUpTo_of_lt (s : State) (a : Nat) {x k : Reg} (hk : x < k) :
    (s.loadUpTo x a).v[k.val] = s.v[k.val] := by
  rw [State.v_loadUpTo, if_neg (Nat.not_le_of_lt (Fin.lt_def.mp hk))]

theorem ofNat_mod_65536 (n : Nat) : BitVec.ofNat 16 (n % 65536) = BitVec.ofNat 16 n := by
  apply BitVec.eq_of_toNat_eq
  rw [BitVec.toNat_ofNat, BitVec.toNat_ofNat, Nat.mod_mod]

/-! ### The statements -/

/-- Settles O31: the sum is read before VF is written. -/
theorem addToIndexSetsIAndFlag : Obligations.AddToIndexSetsIAndFlag := by
  unfold Obligations.AddToIndexSetsIAndFlag
  rintro x s sum rfl
  rw [exec_addI, rangeFlag, flagOf_decide, State.reg_eq, ofNat_mod_65536]
  rfl

/-- Settles O33: the three digits are what is read back from the range. -/
theorem bcdStoresThreeDigits : Obligations.BcdStoresThreeDigits := by
  unfold Obligations.BcdStoresThreeDigits
  intro x s h
  have hlen := State.length_bcdDigits (s.reg x)
  exact ⟨_, exec_ldB_of_le x h, writeBytes_eq_with_cells s _ _, fun hm =>
    ⟨read_writeBytes_add (k := 0) hm (by omega), read_writeBytes_add (k := 1) hm (by omega),
      read_writeBytes_add (k := 2) hm (by omega), fun a ha => read_writeBytes_of_outside hm (by omega)⟩⟩

/-- Settles O34: the registers are what is read back from the range. -/
theorem storeRegistersWritesTheRangeAndAdvancesI : Obligations.StoreRegistersWritesTheRangeAndAdvancesI := by
  unfold Obligations.StoreRegistersWritesTheRangeAndAdvancesI
  intro x s h
  refine ⟨_, exec_storeRegs_of_le h, ?frame, fun hm => ⟨fun k hk => read_writeBytes_regsUpTo hm _ hk, fun a ha =>
    read_writeBytes_of_outside hm (by rw [State.length_regsUpTo]; omega)⟩⟩
  case frame =>
    rw [ofNat_mod_65536]
    exact congrArg (fun t => t.advanceI (x.val + 1)) (writeBytes_eq_with_cells s _ _)

/-- Settles O35: the registers up to X are loaded, the others kept. -/
theorem loadRegistersReadsTheRangeAndAdvancesI : Obligations.LoadRegistersReadsTheRangeAndAdvancesI := by
  unfold Obligations.LoadRegistersReadsTheRangeAndAdvancesI
  intro x s h
  refine ⟨_, exec_loadRegs_of_le h, ?frame, fun k hk => ?loaded, fun k hk => ?kept⟩
  case frame => simp only [State.advanceI, State.loadUpTo, ofNat_mod_65536, Nat.add_assoc]
  case loaded => rw [State.advanceI_v, v_loadUpTo_of_le s _ hk]
  case kept => rw [State.advanceI_v, v_loadUpTo_of_lt s _ hk]

/-- Settles O36: each range is checked whole before anything is written. -/
theorem accessBeyondMemoryFaults : Obligations.AccessBeyondMemoryFaults := by
  unfold Obligations.AccessBeyondMemoryFaults
  rintro s t rfl
  refine ⟨fun h x => ?_, fun x h => ⟨?_, ?_⟩, fun x y n h0 h => ?_⟩
  · exact (exec_ldB x s).trans (next_checkRange_of_out (by omega) (by omega))
  · exact (exec_storeRegs x s).trans (next_checkRange_of_out (by omega) (by omega))
  · exact (exec_loadRegs x s).trans (next_checkRange_of_out (by omega) (by omega))
  · exact (exec_drw x y n s).trans (next_checkRange_of_out h0 h)

/-- Settles O37: what FX65 loads from `I + k` is what FX55 stored there. -/
theorem loadRegistersUndoesStoreRegisters : Obligations.LoadRegistersUndoesStoreRegisters := by
  unfold Obligations.LoadRegistersUndoesStoreRegisters
  intro x s u hm h
  refine ⟨_, _, exec_storeRegs_of_le h, exec_loadRegs_of_le h, fun k hk => ?_⟩
  rw [State.advanceI_v, v_loadUpTo_of_le _ _ hk]
  exact read_writeBytes_regsUpTo hm _ hk

/-- Settles O38: the fetch reads the bytes of V[0] and V[1] where FX55 stored them. -/
theorem storeIsSeenByTheNextFetch : Obligations.StoreIsSeenByTheNextFetch := by
  unfold Obligations.StoreIsSeenByTheNextFetch
  intro x s hm hx hpc h
  have hx1 : 1 ≤ x.val := hx
  refine ⟨_, exec_storeRegs_of_le h, (fetch_of_lt ?inside).trans ?word⟩
  case inside =>
    show s.pc.toNat + 1 < 0x1000
    rw [← hpc]
    omega
  case word =>
    have hhi := read_writeBytes_regsUpTo hm s.i.toNat (Fin.zero_le x)
    have hlo := read_writeBytes_regsUpTo hm s.i.toNat hx
    simp only [State.advanceI_mem, State.advanceI_pc, State.writeBytes_pc, ← hpc]
    exact congrArg Fetched.word (congrArg₂ wordOfBytes hhi hlo)

end Sys2Proof.Machine
end

section
/-! DXYN (spec/44_display.md R161 to R165): the XOR of the grid with the sprite, the collision, and the double draw. -/

namespace Sys2Proof.Machine

/-! ### What a draw inside memory does -/

theorem exec_drw_of_le {x y : Reg} {n : Nibble} {s : State} {x0 y0 rows : Nat} (hx : x0 = (s.v[x.val]).toNat % 64)
    (hy : y0 = (s.v[y.val]).toNat % 32) (hr : rows = min n.toNat (32 - y0))
    (h : rows = 0 ∨ s.i.toNat + rows - 1 ≤ 0xFFF) : exec (.drw x y n) s = .next (s.blit x0 y0 rows) := by
  subst hx hy hr
  rw [exec_drw, State.checkRange_of_inBounds (by rw [rowsDrawn_originY, State.reg_eq]; omega)]
  rfl

namespace State

/-- The rows read for the sprite, pixel by pixel, are its bits. -/
theorem getMsbD_spriteAt_readBytes (s : State) (x0 y0 rows r : Nat) {c : Nat} (hc : c < 64) :
    (spriteAt (s.readBytes s.i.toNat rows) x0 y0 r).getMsbD c = s.spriteBit x0 y0 rows r c := by
  rw [spriteAt_readBytes, spriteBit]
  by_cases hr : y0 ≤ r ∧ r < y0 + rows
  · rw [if_pos hr, getMsbD_spriteRow _ _ hc]
    simp [hr, readByte]
  · rw [if_neg hr, show decide (y0 ≤ r ∧ r < y0 + rows ∧ x0 ≤ c ∧ c < x0 + 8) = false by simp; omega]
    simp

/-- Each pixel becomes old XOR sprite bit (R161). -/
theorem grid_blit (s : State) (x0 y0 rows : Nat) {r c : Nat} (hr : r < 32) (hc : c < 64) :
    (s.blit x0 y0 rows).grid r c = (s.grid r c ^^ s.spriteBit x0 y0 rows r c) := by
  rw [grid, blit_disp, pixel_draw _ _ _ _ hr, getMsbD_spriteAt_readBytes _ _ _ _ _ hc, grid]

/-- Does a pixel that is on meet a sprite bit (R161)? -/
def meetsSprite (s : State) (x0 y0 rows : Nat) : Prop :=
  ∃ r < 32, ∃ c < 64, s.grid r c = true ∧ s.spriteBit x0 y0 rows r c = true

theorem collides_readBytes_iff (s : State) (x0 y0 rows : Nat) :
    Display.collides s.disp x0 y0 (s.readBytes s.i.toNat rows) = true ↔ s.meetsSprite x0 y0 rows := by
  rw [collides_iff]
  refine exists_congr fun r => and_congr_right fun _ => exists_congr fun c => and_congr_right fun hc => ?_
  rw [getMsbD_spriteAt_readBytes _ _ _ _ _ hc, grid]

/-- VF after a draw is the collision. -/
theorem blit_vf_cases (s : State) (x0 y0 rows : Nat) :
    ((s.blit x0 y0 rows).v[15] = 1 ∧ s.meetsSprite x0 y0 rows) ∨
    ((s.blit x0 y0 rows).v[15] = 0 ∧ ¬ s.meetsSprite x0 y0 rows) := by
  have hv : (s.blit x0 y0 rows).v[15] = flagOf (Display.collides s.disp x0 y0 (s.readBytes s.i.toNat rows)) :=
    Vector.getElem_set_self _
  rw [hv, ← collides_readBytes_iff]
  cases Display.collides s.disp x0 y0 (s.readBytes s.i.toNat rows)
  · exact .inr ⟨rfl, Bool.false_ne_true⟩
  · exact .inl ⟨rfl, rfl⟩

theorem blit_vf_eq_one_iff (s : State) (x0 y0 rows : Nat) :
    (s.blit x0 y0 rows).v[15] = 1 ↔ s.meetsSprite x0 y0 rows := by
  obtain ⟨hv, hm⟩ | ⟨hv, hm⟩ := s.blit_vf_cases x0 y0 rows
  · exact iff_of_true hv hm
  · exact iff_of_false (by rw [hv]; decide) hm

/-- Every register but VF is as before a draw. -/
theorem blit_getElem_of_ne (s : State) (x0 y0 rows : Nat) {k : Reg} (hk : k ≠ 15) :
    (s.blit x0 y0 rows).v[k.val] = s.v[k.val] :=
  getElem_set_flag_of_ne s.v _ hk

/-- A second draw of the same sprite from the same place takes the first one back (R165). -/
theorem disp_blit_blit (s : State) (x0 y0 rows : Nat) (p : Word) :
    ({ s.blit x0 y0 rows with pc := p }.blit x0 y0 rows).disp = s.disp := by
  refine display_ext fun r hr c hc => ?_
  have hsecond := ({ s.blit x0 y0 rows with pc := p } : State).grid_blit x0 y0 rows hr hc
  have hfirst := s.grid_blit x0 y0 rows hr hc
  calc _ = ((s.blit x0 y0 rows).grid r c ^^ s.spriteBit x0 y0 rows r c) := hsecond
    _ = s.grid r c := by rw [hfirst, Bool.xor_assoc, Bool.xor_self, Bool.xor_false]

/-- After a draw, the pixels that meet the sprite again are those that the draw turned on (R165). -/
theorem meetsSprite_blit_iff (s : State) (x0 y0 rows : Nat) (p : Word) :
    ({ s.blit x0 y0 rows with pc := p } : State).meetsSprite x0 y0 rows ↔
      ∃ r < 32, ∃ c < 64, s.grid r c = false ∧ (s.blit x0 y0 rows).grid r c = true := by
  refine exists_congr fun r => and_congr_right fun hr => exists_congr fun c => and_congr_right fun hc => ?_
  show (s.blit x0 y0 rows).grid r c = true ∧ s.spriteBit x0 y0 rows r c = true ↔ _
  rw [grid_blit _ _ _ _ hr hc]
  cases s.grid r c <;> cases s.spriteBit x0 y0 rows r c <;> decide

end State

/-! ### The statements -/

/-- Settles O40: the draw is `blit`, pixel by pixel the XOR with the sprite's bits. -/
theorem drawXorsTheSpriteAndReportsCollision : Obligations.DrawXorsTheSpriteAndReportsCollision := by
  unfold Obligations.DrawXorsTheSpriteAndReportsCollision
  intro x y n s x0 y0 rows hx hy hr h
  exact ⟨_, exec_drw_of_le hx hy hr h, rfl, fun r hr c hc => s.grid_blit x0 y0 rows hr hc, s.blit_vf_cases x0 y0 rows,
    fun k hk => s.blit_getElem_of_ne x0 y0 rows hk⟩

/-- Settles O41: X and Y are not VF, so the second draw is of the same sprite at the same place. -/
theorem drawingTwiceRestoresTheDisplay : Obligations.DrawingTwiceRestoresTheDisplay := by
  unfold Obligations.DrawingTwiceRestoresTheDisplay
  intro x y n s x0 y0 rows p hxf hyf hx hy hr h
  have hx' : x0 = ((s.blit x0 y0 rows).v[x.val]).toNat % 64 := by rw [s.blit_getElem_of_ne _ _ _ hxf, ← hx]
  have hy' : y0 = ((s.blit x0 y0 rows).v[y.val]).toNat % 32 := by rw [s.blit_getElem_of_ne _ _ _ hyf, ← hy]
  exact ⟨_, _, exec_drw_of_le hx hy hr h, exec_drw_of_le hx' hy' hr h, s.disp_blit_blit x0 y0 rows p,
    (State.blit_vf_eq_one_iff _ x0 y0 rows).trans (s.meetsSprite_blit_iff x0 y0 rows p)⟩

end Sys2Proof.Machine
end

section
/-! Random, timers, keys and the host (spec/45_timer_random_key.md; spec/60_exceptions.md sections 6, 7;
spec/70_reset_and_hazards.md): the steps that the agenda names, and who shares the timers. -/

namespace Sys2Proof.Machine

/-! ### The ticker's and the host's steps -/

theorem step_of_tick {s : State} {rest : List Action} (h : s.agenda = .tick :: rest) (hd : s.shutdown = false) :
    step s = .next (s.setAgenda rest).ticked := by
  rw [step_of_action h, act, tickerStep, if_neg (by rw [State.setAgenda_shutdown, hd]; decide)]

theorem step_of_tick_of_shutdown {s : State} {rest : List Action} (h : s.agenda = .tick :: rest)
    (hd : s.shutdown = true) : step s = .refused .tickerStopped := by
  rw [step_of_action h, act, tickerStep, if_pos (by rw [State.setAgenda_shutdown, hd])]

theorem step_of_key {s : State} {x : Reg} {k : Key} {rest : List Action} (h : s.agenda = .key k :: rest)
    (hs : s.status = .waitKey x) : step s = .next (completeKeyWait x k (s.setAgenda rest)) := by
  rw [step_of_action h, act, keyStep, State.setAgenda_status, hs]

theorem step_of_waitKey {s : State} {x : Reg} {rest : List Action} (h : s.engineNext rest)
    (hs : s.status = .waitKey x) : step s = .next (awaitKeyStep x (s.setAgenda rest)) := by
  rw [step_of_engineNext h, engineStep, State.setAgenda_status, hs]

theorem step_of_load {s : State} {bytes : List Byte} {rest : List Action} (h : s.agenda = .load bytes :: rest)
    (hs : s.started = false) (hl : bytes.length ≤ 3584) :
    step s = .next ((s.setAgenda rest).writeBytes Config.progBase bytes) := by
  rw [step_of_action h, act, loadStep, State.setAgenda_started, hs, if_neg (by decide),
    if_pos (programFits_iff.mpr hl)]

theorem step_of_reset {s : State} {rest : List Action} (h : s.agenda = .reset :: rest) (hd : s.shutdown = true) :
    step s = .next { State.resetWith s.mem.font with agenda := rest, draws := s.draws, output := s.output } := by
  rw [step_of_action h, act, resetStep, if_pos (by rw [State.setAgenda_shutdown, hd])]
  rfl

/-- An engine step asked of a waiting machine: no key yet, or the end of the wait with some key (log 4). -/
theorem awaitKeyStep_cases (x : Reg) (s : State) :
    awaitKeyStep x s = s.drawn ∨ ∃ k, awaitKeyStep x s = completeKeyWait x k s.drawn := by
  rw [awaitKeyStep]
  split
  · exact .inr ⟨_, rfl⟩
  · exact .inl rfl

/-! ### The timers are the ticker's and three instructions' -/

/-- The machine with other values in its timers. -/
def State.withTimers (s : State) (d b : Byte) : State := { s with dt := d, st := b }

theorem State.checkRange_withTimers (s t : State) (d b : Byte) (n : Nat) :
    (s.withTimers d b).checkRange n (t.withTimers d b) = (s.checkRange n t).withTimers d b := by
  obtain ⟨h, hc⟩ | ⟨h0, h, hc⟩ := s.checkRange_cases t n <;> rw [hc]
  · exact State.checkRange_of_inBounds h
  · exact State.checkRange_of_out h0 h

/-- An instruction that touches no timer does the same whatever the timers hold, and leaves them. -/
theorem exec_withTimers {i : Instr} {s t : State} (hi : i.usesTimer = false) (h : exec i s = .next t) (d b : Byte) :
    exec i (s.withTimers d b) = .next (t.withTimers d b) := by
  cases i
  case ldVxDT | ldDTVx | ldSTVx => cases hi
  case call nnn =>
    by_cases hsp : s.sp.val = 16
    · rw [exec_call_of_full nnn hsp] at h; cases h; exact exec_call_of_full (s := s.withTimers d b) nnn hsp
    · have hlt : s.sp.val < 16 := by omega
      rw [exec_call_of_lt nnn hlt] at h; cases h; exact exec_call_of_lt (s := s.withTimers d b) nnn hlt
  case ret =>
    by_cases hsp : s.sp.val = 0
    · rw [exec_ret_of_empty hsp] at h; cases h; exact exec_ret_of_empty (s := s.withTimers d b) hsp
    · have hpos : 0 < s.sp.val := by omega
      rw [exec_ret_of_pos hpos] at h; cases h; exact exec_ret_of_pos (s := s.withTimers d b) hpos
  case ldB | storeRegs | loadRegs | drw =>
    cases h
    rw [← State.checkRange_withTimers]
    rfl
  all_goals
    cases h
    rfl

/-- An instruction that touches no timer keeps both. -/
theorem timers_of_exec {i : Instr} {s t : State} (hi : i.usesTimer = false) (h : exec i s = .next t) :
    t.dt = s.dt ∧ t.st = s.st := by
  obtain ⟨cause, info, -, rfl⟩ | hf := raises_or_frame_of_exec h
  · exact ⟨rfl, rfl⟩
  · refine ⟨hf.dt fun x hx => ?_, hf.st fun x hx => ?_⟩ <;> subst hx <;> cases hi

/-! ### The statements -/

/-- Settles O42: the byte drawn is masked, and a bit that NN lacks is 0. -/
theorem randomIsTheDrawMaskedByNN : Obligations.RandomIsTheDrawMaskedByNN := by
  unfold Obligations.RandomIsTheDrawMaskedByNN
  refine fun x nn s => ⟨exec_rnd x nn s, fun k _ hk => ?_⟩
  rw [BitVec.getLsbD_and, hk, Bool.and_false]

/-- Settles O43: each of the three is one copy. -/
theorem timerInstructionsCopyTheirValue : Obligations.TimerInstructionsCopyTheirValue := by
  unfold Obligations.TimerInstructionsCopyTheirValue
  exact fun x s => ⟨exec_ldVxDT x s, exec_ldDTVx x s, exec_ldSTVx x s⟩

/-- Settles O44: the two skips ask the same question and skip on opposite answers. -/
theorem keySkipsAreComplementary : Obligations.KeySkipsAreComplementary := by
  unfold Obligations.KeySkipsAreComplementary
  refine fun x s => ⟨exec_skp x s, ?_⟩
  rw [exec_sknp, State.keyDown, State.reg_eq]
  cases Config.keyDown s.draws s.v[x.val] <;> rfl

/-- Settles O45: the status is the whole effect. -/
theorem keyWaitBlocksTheEngine : Obligations.KeyWaitBlocksTheEngine := by
  unfold Obligations.KeyWaitBlocksTheEngine
  exact exec_ldVxK

/-- Settles O46: a key supplied or answered completes the wait. -/
theorem keyWaitEndsWithAKey : Obligations.KeyWaitEndsWithAKey := by
  unfold Obligations.KeyWaitEndsWithAKey
  refine fun s x rest hs => ⟨fun k ha => step_of_key ha hs, fun hn => ?_⟩
  rw [step_of_waitKey hn hs]
  obtain hw | ⟨k, hk⟩ := awaitKeyStep_cases x (s.setAgenda rest)
  · exact .inl (congrArg _ hw)
  · exact .inr ⟨k, congrArg _ hk⟩

/-- Settles O47: the ticker's step is `ticked`, or it is refused. -/
theorem tickerStepDecrementsBothTimers : Obligations.TickerStepDecrementsBothTimers := by
  unfold Obligations.TickerStepDecrementsBothTimers
  exact fun s rest ha => ⟨fun hd => ⟨_, step_of_tick ha hd, rfl, toNat_countDown s.dt, toNat_countDown s.st⟩,
    step_of_tick_of_shutdown ha⟩

/-- Settles O48, by induction on the number of ticks. -/
theorem ticksCountDownToZeroAndStay : Obligations.TicksCountDownToZeroAndStay := by
  unfold Obligations.TicksCountDownToZeroAndStay
  intro n
  induction n with
  | zero =>
    intro s rest _ ha
    subst ha
    exact ⟨s, rfl, rfl, rfl, rfl⟩
  | succ n ih =>
    intro s rest hd ha
    have hstep := step_of_tick (rest := List.replicate n .tick ++ rest) ha hd
    obtain ⟨t, hrun, ht, hdt, hst⟩ := ih (s.setAgenda (List.replicate n .tick ++ rest)).ticked rest hd rfl
    refine ⟨t, (run_succ_of_step hstep).trans hrun, ht, ?_, ?_⟩
    · rw [hdt, State.ticked_dt, toNat_countDown, State.setAgenda_dt]
      omega
    · rw [hst, State.ticked_st, toNat_countDown, State.setAgenda_st]
      omega

/-- Settles O49: the tick is another pair of timer values, which the instruction keeps. -/
theorem tickerCommutesWithOtherInstructions : Obligations.TickerCommutesWithOtherInstructions := by
  unfold Obligations.TickerCommutesWithOtherInstructions
  intro i s hi
  obtain ⟨t, h⟩ := exists_exec_eq_next i s
  obtain ⟨hdt, hst⟩ := timers_of_exec hi h
  refine ⟨t, h, (exec_withTimers hi h (countDown s.dt) (countDown s.st)).trans ?_⟩
  rw [← hdt, ← hst]
  rfl

/-- Settles O50: the three timer instructions do not read ST, and no other instruction reads a timer. -/
theorem noInstructionReadsTheSoundTimer : Obligations.NoInstructionReadsTheSoundTimer := by
  unfold Obligations.NoInstructionReadsTheSoundTimer
  intro i s b
  cases hi : i.usesTimer with
  | true =>
    cases i
    case ldVxDT | ldDTVx => exact ⟨_, rfl, fun _ => rfl, fun ⟨_, hx⟩ => nomatch hx⟩
    case ldSTVx x => exact ⟨_, rfl, fun hx => absurd rfl (hx x), fun _ => rfl⟩
    all_goals cases hi
  | false =>
    obtain ⟨t, h⟩ := exists_exec_eq_next i s
    obtain ⟨hdt, -⟩ := timers_of_exec hi h
    refine ⟨t, h, fun _ => (exec_withTimers hi h s.dt b).trans ?_, ?_⟩
    · rw [← hdt]
      rfl
    · rintro ⟨x, rfl⟩
      cases hi

/-- Settles O51: the flag is set, and with it the ticker is refused and a running engine stops. -/
theorem shutdownStopsEngineAndTicker : Obligations.ShutdownStopsEngineAndTicker := by
  unfold Obligations.ShutdownStopsEngineAndTicker
  intro s rest ha
  obtain ⟨-, -, hstop⟩ :=
    finalStatesTakeNoEngineStep { s with shutdown := true, agenda := .engine :: rest } rest (.inr rfl)
  exact ⟨step_of_action ha, step_of_tick_of_shutdown rfl rfl, fun hs => hstop hs rfl⟩

/-- Settles O52: the window, the bound, and the bytes read back from 0x200 on. -/
theorem programLoadPlacesTheBytes : Obligations.ProgramLoadPlacesTheBytes := by
  unfold Obligations.ProgramLoadPlacesTheBytes
  intro s bytes rest ha
  refine ⟨fun hs => ?late, fun hs hl => ?long, fun hs hl => ?_⟩
  case late => rw [step_of_action ha, act, loadStep, State.setAgenda_started, if_pos hs]
  case long =>
    rw [step_of_action ha, act, loadStep, State.setAgenda_started, hs, if_neg (by decide),
      if_neg (fun hfits => absurd (programFits_iff.mp hfits) (by omega))]
  · exact ⟨_, step_of_load ha hs hl, writeBytes_eq_with_cells (s.setAgenda rest) _ bytes,
      fun hm a => Memory.read_writeList hm a⟩

/-- Settles O53: the state after reset, element by element. -/
theorem resetGivesEveryElementItsValue : Obligations.ResetGivesEveryElementItsValue := by
  unfold Obligations.ResetGivesEveryElementItsValue
  intro s rest ha
  refine ⟨fun hd => ?refused, fun hd => ⟨_, step_of_reset ha hd, ?_⟩⟩
  case refused => rw [step_of_action ha, act, resetStep, State.setAgenda_shutdown, hd, if_neg (by decide)]
  · exact ⟨rfl, fun k => by simp, rfl, rfl, fun k => by simp, rfl, rfl, fun y _ x _ => pixel_clear y x, rfl, rfl, rfl,
      fun a ha => resetByte_of_outside _ ha, fun k => resetByte_font _ k.isLt, rfl, rfl, rfl, rfl⟩

end Sys2Proof.Machine
end

section
/-! Memory as data (spec/10_state.md section 9): a canonical memory is told by what it reads. -/

namespace Sys2Proof.Machine

/-! ### Canonical cells -/

namespace Cells

variable {base : Nat → Byte}

/-- The canonical form of a list of cells from address `low` on: rising, and no cell holds the base's byte. -/
def Canonical (base : Nat → Byte) (low : Nat) (m : Cells) : Prop :=
  risingFrom low m = true ∧ ∀ c ∈ m, c.2 ≠ base c.1

theorem canonical_cons {low k : Nat} {b : Byte} {rest : Cells} (h : Canonical base low ((k, b) :: rest)) :
    low ≤ k ∧ b ≠ base k ∧ Canonical base (k + 1) rest := by
  obtain ⟨hrising, hdiffer⟩ := h
  simp only [risingFrom, Bool.and_eq_true, decide_eq_true_eq] at hrising
  exact ⟨hrising.1, hdiffer _ List.mem_cons_self, hrising.2, fun c hc => hdiffer c (List.mem_cons_of_mem _ hc)⟩

/-- Where canonical cells begin. -/
theorem canonical_of_le {low low' k : Nat} {b : Byte} {rest : Cells} (h : Canonical base low ((k, b) :: rest))
    (hk : low' ≤ k) : Canonical base low' ((k, b) :: rest) := by
  obtain ⟨hrising, hdiffer⟩ := h
  simp only [risingFrom, Bool.and_eq_true, decide_eq_true_eq] at hrising
  exact ⟨by simp [risingFrom, hk, hrising.2], hdiffer⟩

theorem read_cons_self (k : Nat) (b : Byte) (rest : Cells) : read base ((k, b) :: rest) k = b :=
  if_pos rfl

theorem read_cons_of_ne {k a : Nat} (b : Byte) (rest : Cells) (h : k ≠ a) :
    read base ((k, b) :: rest) a = read base rest a :=
  if_neg h

/-- A first cell shows: no canonical cells that begin above it read the same. -/
theorem read_ne_of_cons {low k : Nat} {b : Byte} {rest n : Cells} (hm : Canonical base low ((k, b) :: rest))
    (hn : Canonical base (k + 1) n) : read base ((k, b) :: rest) k ≠ read base n k := by
  obtain ⟨-, hb, -⟩ := canonical_cons hm
  rw [read_cons_self, read_below hn.1 (Nat.lt_succ_self k)]
  exact hb

/-- Behind one first cell, what reads the same still reads the same. -/
theorem read_eq_of_cons {k : Nat} {b : Byte} {m n : Cells} (hm : Canonical base (k + 1) m)
    (hn : Canonical base (k + 1) n) (h : ∀ a, read base ((k, b) :: m) a = read base ((k, b) :: n) a) (a : Nat) :
    read base m a = read base n a := by
  by_cases ha : k = a
  · rw [read_below hm.1 (by omega), read_below hn.1 (by omega)]
  · rw [← read_cons_of_ne b m ha, ← read_cons_of_ne b n ha, h a]

/-- Canonical cells that read the same are the same. -/
theorem eq_of_read_eq {low : Nat} {m n : Cells} (hm : Canonical base low m) (hn : Canonical base low n)
    (h : ∀ a, read base m a = read base n a) : m = n := by
  induction m generalizing low n with
  | nil =>
    cases n with
    | nil => rfl
    | cons d n =>
      exact absurd (h d.1).symm (read_ne_of_cons hn ⟨rfl, nofun⟩)
  | cons c m ih =>
    obtain ⟨k, b⟩ := c
    obtain ⟨-, -, hm'⟩ := canonical_cons hm
    cases n with
    | nil => exact absurd (h k) (read_ne_of_cons hm ⟨rfl, nofun⟩)
    | cons d n =>
      obtain ⟨j, e⟩ := d
      obtain ⟨-, -, hn'⟩ := canonical_cons hn
      obtain hlt | rfl | hgt := Nat.lt_trichotomy k j
      · exact absurd (h k) (read_ne_of_cons hm (canonical_of_le hn hlt))
      · obtain rfl : b = e := by simpa only [read_cons_self] using h k
        rw [ih hm' hn' (read_eq_of_cons hm' hn' h)]
      · exact absurd (h j).symm (read_ne_of_cons hn (canonical_of_le hm hgt))

end Cells

theorem Memory.canonical_of_wf {m : Memory} (h : m.wf = true) : Cells.Canonical (resetByte m.font) 0 m.cells := by
  obtain ⟨hrising, hcells⟩ := (Memory.wf_iff m).mp h
  exact ⟨hrising, fun c hc => (hcells c hc).2⟩

/-! ### The statement -/

/-- Settles O59: one FONT gives one base, and over it the cells are told by what they read. -/
theorem canonicalMemoriesAreEqualWhenTheyReadEqual : Obligations.CanonicalMemoriesAreEqualWhenTheyReadEqual := by
  unfold Obligations.CanonicalMemoriesAreEqualWhenTheyReadEqual
  rintro ⟨font, cells⟩ ⟨_, cells'⟩ rfl hm hn h
  have hcells : cells = cells' := Cells.eq_of_read_eq (Memory.canonical_of_wf hm) (Memory.canonical_of_wf hn) h
  rw [hcells]

end Sys2Proof.Machine
end
